-- ==== Sys2Proof/Word.lean ====
section
/-! DEFINITION. The word and the command frame of the Duplex AEAD core (00_scope.md R6, R10; 30_encoding.md R55). -/

namespace Sys2Proof

/-- R6: a word is a 64-bit unsigned integer, bit 0 the least significant (R10). -/
abbrev Word := BitVec 64

/-- R55: the canonical 132-bit serialisation of one command, `op[131:128] d1[127:64] d0[63:0]`. -/
abbrev Frame := BitVec 132

end Sys2Proof
end

