-- ==== Sys2Proof/Syntax.lean ====
section
/-! DEFINITION. The commands of the core (30_encoding.md R56, one constructor per row of opcode_table.json), the
assembler's lines (R63) and the source's operations (R64). -/

namespace Sys2Proof

/-- One command. Every command frame carries both operand words (R44, R55), so every constructor holds `d0` and then
`d1`, also where the command ignores one or both (R58). -/
inductive Instr where
  | status (d0 d1 : Word)   -- 0x0, 42_control.md R130
  | init   (d0 d1 : Word)   -- 0x1, 41_session.md R100
  | ad     (d0 d1 : Word)   -- 0x2, R103
  | adEnd  (d0 d1 : Word)   -- 0x3, R106
  | enc    (d0 d1 : Word)   -- 0x4, R109
  | dec    (d0 d1 : Word)   -- 0x5, R112
  | final  (d0 d1 : Word)   -- 0x6, R115
  | clear  (d0 d1 : Word)   -- 0x7, 42_control.md R132
  | cmd8   (d0 d1 : Word)   -- 0x8 to 0xF, reserved, R59, R134
  | cmd9   (d0 d1 : Word)
  | cmdA   (d0 d1 : Word)
  | cmdB   (d0 d1 : Word)
  | cmdC   (d0 d1 : Word)
  | cmdD   (d0 d1 : Word)
  | cmdE   (d0 d1 : Word)
  | cmdF   (d0 d1 : Word)
deriving DecidableEq, Repr

/-- One line of the assembler (R63), its operands still the numbers the literals denote. -/
inductive Asm where
  | status
  | init  (k0 k1 : Nat)
  | ad    (a : Nat)
  | adEnd
  | enc   (p : Nat)
  | dec   (c : Nat)
  | final
  | clear
  | cmd   (n : Nat)         -- `.cmd 0xN`, a reserved opcode
deriving DecidableEq, Repr

/-- The source's five operations, each with the arguments it passes (R64). -/
inductive SourceOp where
  | initializeOp (key0 key1 : Word)
  | absorbAssociatedData (ad : List Word)
  | encryptBlocks (pt : List Word)
  | decryptBlocks (ct : List Word)
  | finalize (key0 key1 : Word)
deriving DecidableEq, Repr

end Sys2Proof
end

