-- ==== Sys2Proof/WellFormed.lean ====
section
/-! DEFINITION. What is well formed: a raw command number (R55), a command (R58, R59) and an assembler line (R63). -/

namespace Sys2Proof

/-- R55: every command is 132 bits, so a raw number is a frame exactly when it has no bit above bit 131. -/
def rawWf (w : Nat) : Bool := w < 2 ^ 132

/-- R58: any value of an operand field is legal and no operand value can make a command illegal; R59: a reserved
opcode is a command too, one that is rejected when it runs. So no command is ill formed. -/
def Instr.wf : Instr → Bool
  | .status _ _ => true
  | .init _ _ => true
  | .ad _ _ => true
  | .adEnd _ _ => true
  | .enc _ _ => true
  | .dec _ _ => true
  | .final _ _ => true
  | .clear _ _ => true
  | .cmd8 _ _ => true
  | .cmd9 _ _ => true
  | .cmdA _ _ => true
  | .cmdB _ _ => true
  | .cmdC _ _ => true
  | .cmdD _ _ => true
  | .cmdE _ _ => true
  | .cmdF _ _ => true

/-- R63: operands are 64-bit literals. -/
def literalWf (n : Nat) : Bool := n < 2 ^ 64

/-- R63: literals fit 64 bits, and `.cmd 0xN` has N from 8 to F. -/
def Asm.wf : Asm → Bool
  | .status => true
  | .init k0 k1 => literalWf k0 && literalWf k1
  | .ad a => literalWf a
  | .adEnd => true
  | .enc p => literalWf p
  | .dec c => literalWf c
  | .final => true
  | .clear => true
  | .cmd n => decide (8 ≤ n) && decide (n ≤ 15)

end Sys2Proof
end

