-- ==== Sys2Proof/Decode.lean ====
section
/-! DEFINITION. Decoding and encoding of command frames (30_encoding.md R55 to R60), and the opcode table with its
matches and masks (R57). -/

namespace Sys2Proof

/-- R55: the frame of an opcode and two operand words. -/
def frameOf (op : BitVec 4) (d1 d0 : Word) : Frame := op ++ d1 ++ d0

/-- R55: bits 131:128. -/
def frameOp (f : Frame) : BitVec 4 := f.extractLsb' 128 4

/-- R55: bits 127:64. -/
def frameD1 (f : Frame) : Word := f.extractLsb' 64 64

/-- R55: bits 63:0. -/
def frameD0 (f : Frame) : Word := f.extractLsb' 0 64

/-- R56: the opcode map, the command of opcode 0x0 first and that of 0xF last. -/
def opcodeMap : List (Word → Word → Instr) :=
  [.status, .init, .ad, .adEnd, .enc, .dec, .final, .clear, .cmd8, .cmd9, .cmdA, .cmdB, .cmdC, .cmdD, .cmdE, .cmdF]

/-- R57: the command an opcode selects; total over the 16 values of `op`, and reading `op` alone to select. Operands pass
unchanged (R60). -/
def instrOf (op : BitVec 4) (d0 d1 : Word) : Instr :=
  (opcodeMap[op.toNat]'(op.isLt)) d0 d1

/-- R57: every frame decodes. -/
def decodeFrame (f : Frame) : Instr := instrOf (frameOp f) (frameD0 f) (frameD1 f)

/-- Why a raw number is no command. -/
inductive DecodeError where
  /-- it has a bit above bit 131, which no command has (R55) -/
  | strayBits (w : Nat)
deriving DecidableEq, Repr

/-- R55: reads a command from a raw number, its bits numbered as in the serialisation. -/
def decode (w : Nat) : Except DecodeError Instr :=
  if rawWf w then .ok (decodeFrame (BitVec.ofNat 132 w)) else .error (.strayBits w)

/-- R56: the opcode of a command. -/
def Instr.opcode : Instr → BitVec 4
  | .status _ _ => 0x0
  | .init _ _ => 0x1
  | .ad _ _ => 0x2
  | .adEnd _ _ => 0x3
  | .enc _ _ => 0x4
  | .dec _ _ => 0x5
  | .final _ _ => 0x6
  | .clear _ _ => 0x7
  | .cmd8 _ _ => 0x8
  | .cmd9 _ _ => 0x9
  | .cmdA _ _ => 0xa
  | .cmdB _ _ => 0xb
  | .cmdC _ _ => 0xc
  | .cmdD _ _ => 0xd
  | .cmdE _ _ => 0xe
  | .cmdF _ _ => 0xf

/-- R55: the first operand word of a command. -/
def Instr.d0 : Instr → Word
  | .status d0 _ => d0
  | .init d0 _ => d0
  | .ad d0 _ => d0
  | .adEnd d0 _ => d0
  | .enc d0 _ => d0
  | .dec d0 _ => d0
  | .final d0 _ => d0
  | .clear d0 _ => d0
  | .cmd8 d0 _ => d0
  | .cmd9 d0 _ => d0
  | .cmdA d0 _ => d0
  | .cmdB d0 _ => d0
  | .cmdC d0 _ => d0
  | .cmdD d0 _ => d0
  | .cmdE d0 _ => d0
  | .cmdF d0 _ => d0

/-- R55: the second operand word of a command. -/
def Instr.d1 : Instr → Word
  | .status _ d1 => d1
  | .init _ d1 => d1
  | .ad _ d1 => d1
  | .adEnd _ d1 => d1
  | .enc _ d1 => d1
  | .dec _ d1 => d1
  | .final _ d1 => d1
  | .clear _ d1 => d1
  | .cmd8 _ d1 => d1
  | .cmd9 _ d1 => d1
  | .cmdA _ d1 => d1
  | .cmdB _ d1 => d1
  | .cmdC _ d1 => d1
  | .cmdD _ d1 => d1
  | .cmdE _ d1 => d1
  | .cmdF _ d1 => d1

/-- R55: the frame of a command. -/
def encode (i : Instr) : Frame := frameOf i.opcode i.d1 i.d0

/-- R57: the mask of every row of opcode_table.json. -/
def opcodeMask : Frame := 0xf00000000000000000000000000000000

/-- R57: the matches of the rows of opcode_table.json, in the table's order, with the command each row names. -/
def opcodeTable : List (Frame × (Word → Word → Instr)) :=
  [(0x000000000000000000000000000000000, .status), (0x100000000000000000000000000000000, .init),
   (0x200000000000000000000000000000000, .ad), (0x300000000000000000000000000000000, .adEnd),
   (0x400000000000000000000000000000000, .enc), (0x500000000000000000000000000000000, .dec),
   (0x600000000000000000000000000000000, .final), (0x700000000000000000000000000000000, .clear),
   (0x800000000000000000000000000000000, .cmd8), (0x900000000000000000000000000000000, .cmd9),
   (0xa00000000000000000000000000000000, .cmdA), (0xb00000000000000000000000000000000, .cmdB),
   (0xc00000000000000000000000000000000, .cmdC), (0xd00000000000000000000000000000000, .cmdD),
   (0xe00000000000000000000000000000000, .cmdE), (0xf00000000000000000000000000000000, .cmdF)]

/-- The command this decoder reads from a number whose bits are numbered as opcode_table.json numbers them (R55): the
low `nbits` bits of `w`, every bit above them 0. -/
def decodeTableWord (nbits w : Nat) : Option Instr :=
  match decode (w % 2 ^ nbits) with
  | .ok i => some i
  | .error _ => none

end Sys2Proof
end

