-- ==== Sys2Proof/Machine/Types.lean ====
section
/-! DEFINITION. The value types of the machine: the permutation state, the key, the phase, the response, the pins of the
command port and the host's inputs (10_state.md, 20_memory.md). -/

namespace Sys2Proof.Machine

/-- R20: the five 64-bit words of the permutation state, `s0` the rate and `s1` to `s4` the capacity. -/
structure Sponge where
  s0 : Word
  s1 : Word
  s2 : Word
  s3 : Word
  s4 : Word
deriving DecidableEq, Repr, Inhabited

/-- R23: the two words of the key register. -/
structure Key where
  k0 : Word
  k1 : Word
deriving DecidableEq, Repr, Inhabited

/-- R24: the six session phases. The values 6 and 7 are never held (I6: exactly six constructors). -/
inductive Phase where
  | uninit | initialized | absorbedAd | encrypting | decrypting | finalized
deriving DecidableEq, Repr, Inhabited

/-- R28, R61, R140: the response status codes, also what LAST_ERR holds (R27). Code 3 is never produced (I7). -/
inductive Status where
  | ok | errPhase | errInvalid
deriving DecidableEq, Repr, Inhabited

/-- R75, R62: the round count, a closed choice. -/
inductive Rounds where
  | short | long
deriving DecidableEq, Repr, Inhabited

/-- R28: one response. -/
structure Response where
  status : Status
  r0 : Word
  r1 : Word
deriving DecidableEq, Repr, Inhabited

/-- R81: which substitution layer an instance has, as plain data: the default of R82, or some other one, known by a
number and otherwise free. -/
inductive SubstChoice where
  | default
  | other (n : Nat)
deriving DecidableEq, Repr

/-- R45: the input pins of the cycle-level port, as sampled at one rising edge of `clk`. -/
structure Pins where
  rst : Bool
  cmdValid : Bool
  cmdOp : BitVec 4
  cmdD0 : Word
  cmdD1 : Word
  rspReady : Bool
deriving DecidableEq, Repr

/-- R45: the output pins of the cycle-level port. -/
structure OutPins where
  cmdReady : Bool
  rspValid : Bool
  rspStatus : BitVec 2
  rspR0 : Word
  rspR1 : Word
  phaseO : BitVec 3
deriving DecidableEq, Repr

/-- What the host (or the supply) does to the core next. -/
inductive HostInput where
  /-- R44: a command offered at the transaction level. -/
  | command (f : Frame)
  /-- R45 (4): the host takes the pending response. -/
  | take
  /-- R160: reset at the transaction level. -/
  | reset
  /-- R45: one rising edge of `clk` with these pins. -/
  | edge (p : Pins)
  /-- R156: a loss of power. -/
  | powerLoss
deriving DecidableEq, Repr

end Sys2Proof.Machine
end

