-- ==== Sys2Proof/Machine/State.lean ====
section
/-! DEFINITION. The state of the core (10_state.md R20 to R35), its reset value, and the reasons a step can stop. -/

namespace Sys2Proof.Machine

/-- The registers of the core: everything R35 lists but the constant ROM of R26 (`rcTable` in Permutation.lean). -/
structure Regs where
  /-- R20: the permutation state. -/
  S : Sponge
  /-- R23: the key register, write-only. -/
  K : Key
  /-- R24: the session phase. -/
  phase : Phase
  /-- R27: ERR, sticky. -/
  err : Bool
  /-- R27: LAST_ERR. -/
  lastErr : Status
  /-- R28, R45: a response is pending. -/
  rspValid : Bool
  /-- R28: the response registers. -/
  rsp : Response
  /-- R29: a command is executing. -/
  busy : Bool
  /-- R29: the index of the round being executed. -/
  rnd : BitVec 4
  /-- R29, R62: the round-count select. -/
  rsel : Rounds
  /-- R45 (1), R47: the command sampled at the accepting edge. -/
  held : Frame
  /-- R45 (3): how many edges from now the response of the command in flight is offered. -/
  left : Nat
deriving DecidableEq, Repr, Inhabited

/-- R35, R160: the registers right after reset.
DESIGN CHOICE (log entry 9, unsafe): `held` and `left` are state the spec only implies; they reset to 0. -/
def Regs.reset : Regs where
  S := ⟨0, 0, 0, 0, 0⟩
  K := ⟨0, 0⟩
  phase := .uninit
  err := false
  lastErr := .ok
  rspValid := false
  rsp := ⟨.ok, 0, 0⟩
  busy := false
  rnd := 0
  rsel := .short
  held := 0
  left := 0

/-- The whole state: the registers of the core, and four fields of the model's own. -/
structure State extends Regs where
  /-- DESIGN CHOICE (log entry 1, safe): what the host does next, oldest first. -/
  inputs : List HostInput
  /-- DESIGN CHOICE (log entry 4): the configuration field SUBST_LAYER of R81; no step changes it. -/
  subst : SubstChoice
  /-- DESIGN CHOICE (log entry 11, safe): how many free values the run has used. -/
  fresh : Nat
  /-- DESIGN CHOICE (log entry 10, safe): power was lost and no reset has come since (R156). -/
  lost : Bool
deriving DecidableEq, Repr

/-- R160: the state after reset, with no host input, the default substitution layer (R8, R82; log entry 4) and no free
value used. -/
def State.reset : State := { Regs.reset with inputs := [], subst := .default, fresh := 0, lost := false }

/-- R143, R145, R146: no command, operand or event stops the core, so there is no fault. -/
inductive Fault where
deriving DecidableEq, Repr

/-- The reasons for which the model stops. -/
inductive Refusal where
  /-- Raised by `exec` alone, for an instruction with no meaning yet. Safe. No instruction is left so. -/
  | notModelled (mnemonic : String)
  /-- Raised by `hostInput` for every input but a reset (or another loss of power) after a loss of power, whose effect
  the spec does not say (R156, I12 "refuse"). Safe. -/
  | stateLost
deriving DecidableEq, Repr

end Sys2Proof.Machine
end

