-- ==== Sys2Proof/Config.lean ====
section
/-! DEFINITION. What an implementation fixes and the spec leaves open: opaque constants, none with a body. -/

namespace Sys2Proof.Config

open Sys2Proof.Machine

/-- R81, I1: the substitution layer of an instance that does not have the default one (log entry 4). -/
opaque otherSubst : Nat → Sponge → Sponge

/-- R171, I2: the cycles a command takes beyond the first, a function of opcode and phase only (log entry 5). -/
opaque latExtra : BitVec 4 → Phase → Nat

/-- R45 (3), R171: LAT(op, phase), finite and at least 1. -/
def lat (op : BitVec 4) (ph : Phase) : Nat := latExtra op ph + 1

/-- R29, C7: which round a running permutation is in, given opcode, phase and the cycles left (log entry 6). -/
opaque roundAt : BitVec 4 → Phase → Nat → Nat

/-- R166 (b): what the response registers hold while no response is pending, after one was taken (log entry 8). -/
opaque idleRsp : Nat → Response

/-- R156, I12: what the registers hold after a loss of power (log entry 10). -/
opaque lostRegs : Nat → Regs

end Sys2Proof.Config
end

