-- ==== Sys2Proof/Machine/Permutation.lean ====
section
/-! DEFINITION. The permutation engine (40_permutation.md): the round-constant ROM, constant injection, the substitution
layer, the diffusion layer and the permutation. -/

namespace Sys2Proof.Machine

/-- R11: right rotation of a 64-bit word, for n from 0 to 63. -/
def ror64 (a : Word) (n : Nat) : Word := if n = 0 then a else (a >>> n) ||| (a <<< (64 - n))

/-- R75: the number of rounds. -/
def Rounds.count : Rounds → Nat
  | .short => 6
  | .long => 12

/-- R62: the coding of the round-count select `rsel`. -/
def Rounds.select : Rounds → BitVec 1
  | .short => 0
  | .long => 1

/-- R26: the 16 entries of the round-constant ROM, each zero-extended to 64 bits. -/
def rcTable : List Word :=
  [0xf0, 0xe1, 0xd2, 0xc3, 0xb4, 0xa5, 0x96, 0x87, 0x78, 0x69, 0x5a, 0x4b, 0x3c, 0x2d, 0x1e, 0x0f]

/-- R26: `RC[i]`. -/
def rc (i : Fin 16) : Word := rcTable[i.val]'(by simp [rcTable])

/-- R78: the index of the constant of round `r`, a 4-bit value. -/
def idx (rounds : Rounds) (r : Nat) : Fin 16 := Fin.ofNat 16 (12 - rounds.count + r)

/-- R79: constant injection into `S[2]`. -/
def pC (S : Sponge) (i : Fin 16) : Sponge := { S with s2 := S.s2 ^^^ rc i }

/-- R82: the default substitution layer, line by line. -/
def substDefault (S : Sponge) : Sponge :=
  let x0 := S.s0; let x1 := S.s1; let x2 := S.s2; let x3 := S.s3; let x4 := S.s4
  let x0 := x0 ^^^ x4; let x4 := x4 ^^^ x3; let x2 := x2 ^^^ x1
  let t0 := ~~~x0 &&& x1; let t1 := ~~~x1 &&& x2; let t2 := ~~~x2 &&& x3; let t3 := ~~~x3 &&& x4; let t4 := ~~~x4 &&& x0
  let x0 := x0 ^^^ t1; let x1 := x1 ^^^ t2; let x2 := x2 ^^^ t3; let x3 := x3 ^^^ t4; let x4 := x4 ^^^ t0
  let x1 := x1 ^^^ x0; let x0 := x0 ^^^ x4; let x3 := x3 ^^^ x2; let x2 := ~~~x2
  ⟨x0, x1, x2, x3, x4⟩

/-- R81: SUBST_LAYER, the substitution layer of the instance. -/
def substLayer : SubstChoice → Sponge → Sponge
  | .default => substDefault
  | .other n => Config.otherSubst n

/-- R80 (e): the named assumption that the substitution layer of an instance is a bijection. Properties (a) and (c) of
R80, a function of the whole state and of nothing else, are the type of `substLayer c`. -/
def SubstBijective (c : SubstChoice) : Prop := Function.Bijective (substLayer c)

/-- R84: one word of the diffusion layer, both rotations of the value before the layer. -/
def diffuse (a b : Nat) (w : Word) : Word := w ^^^ ror64 w a ^^^ ror64 w b

/-- R84 with the rotation amounts of R85. -/
def pL (S : Sponge) : Sponge where
  s0 := diffuse 19 28 S.s0
  s1 := diffuse 61 39 S.s1
  s2 := diffuse 1 6 S.s2
  s3 := diffuse 10 17 S.s3
  s4 := diffuse 7 41 S.s4

/-- R77: one round, with the constant index as argument. -/
def round (c : SubstChoice) (i : Fin 16) (S : Sponge) : Sponge := pL (substLayer c (pC S i))

/-- R76, R86: the permutation. -/
def permute (c : SubstChoice) (rounds : Rounds) (S : Sponge) : Sponge :=
  (List.range rounds.count).foldl (fun S r => round c (idx rounds r) S) S

end Sys2Proof.Machine
end

