-- ==== Sys2Proof/Machine/Flags.lean ====
section
/-! DEFINITION. The codes of phase and status and the status word (10_state.md R24, R27; 30_encoding.md R61). -/

namespace Sys2Proof.Machine

/-- R24: the 3-bit code of a phase. -/
def Phase.code : Phase → BitVec 3
  | .uninit => 0
  | .initialized => 1
  | .absorbedAd => 2
  | .encrypting => 3
  | .decrypting => 4
  | .finalized => 5

/-- R61: the 2-bit code of a status. -/
def Status.code : Status → BitVec 2
  | .ok => 0
  | .errPhase => 1
  | .errInvalid => 2

/-- R130: `zext_64(LAST_ERR << 4 | ERR << 3 | phase)`, the layout of R27. -/
def statusWord (s : State) : Word :=
  (s.lastErr.code.zeroExtend 64 <<< 4) ||| ((BitVec.ofBool s.err).zeroExtend 64 <<< 3) ||| s.phase.code.zeroExtend 64

/-- R61: the 130-bit serialisation of a response, `status[129:128] r1[127:64] r0[63:0]`. -/
def Response.encode (r : Response) : BitVec 130 := r.status.code ++ r.r1 ++ r.r0

end Sys2Proof.Machine
end

