-- ==== Sys2Proof/Machine/Operands.lean ====
section
/-! DEFINITION. The operand forms of the commands: where an operand word enters the permutation state or the key, and the
tables that read a command and the phase: legality (41_session.md R121, R122), the next phase (R121) and the
permutation call of a command (70_reset_and_hazards.md R172). -/

namespace Sys2Proof.Machine

/-- R100, R132: the all-zero permutation state. -/
def Sponge.zero : Sponge := ⟨0, 0, 0, 0, 0⟩

/-- R100, R132: the all-zero key. -/
def Key.zero : Key := ⟨0, 0⟩

/-- R103: an associated-data block enters the rate word. -/
def Sponge.xorRate (S : Sponge) (a : Word) : Sponge := { S with s0 := S.s0 ^^^ a }

/-- R109, R112: the rate word becomes the ciphertext block. -/
def Sponge.setRate (S : Sponge) (c : Word) : Sponge := { S with s0 := c }

/-- R106: the domain-separation flip of bit 0 of `S[4]`. -/
def Sponge.flipDomain (S : Sponge) : Sponge := { S with s4 := S.s4 ^^^ 0x0000000000000001 }

/-- R100, R115: the key enters capacity words 3 and 4. -/
def Sponge.xorTail (S : Sponge) (k : Key) : Sponge := { S with s3 := S.s3 ^^^ k.k0, s4 := S.s4 ^^^ k.k1 }

/-- R115: the key enters capacity words 1 and 2. -/
def Sponge.xorMid (S : Sponge) (k : Key) : Sponge := { S with s1 := S.s1 ^^^ k.k0, s2 := S.s2 ^^^ k.k1 }

/-- R58: how many of its operand words, counted from `d0`, a command uses. -/
def operandsUsed : Instr → Nat
  | .status _ _ => 0
  | .init _ _ => 2
  | .ad _ _ => 1
  | .adEnd _ _ => 0
  | .enc _ _ => 1
  | .dec _ _ => 1
  | .final _ _ => 0
  | .clear _ _ => 0
  | .cmd8 _ _ => 0
  | .cmd9 _ _ => 0
  | .cmdA _ _ => 0
  | .cmdB _ _ => 0
  | .cmdC _ _ => 0
  | .cmdD _ _ => 0
  | .cmdE _ _ => 0
  | .cmdF _ _ => 0

/-- R59: the reserved opcodes. -/
def reserved : Instr → Bool
  | .status _ _ => false
  | .init _ _ => false
  | .ad _ _ => false
  | .adEnd _ _ => false
  | .enc _ _ => false
  | .dec _ _ => false
  | .final _ _ => false
  | .clear _ _ => false
  | .cmd8 _ _ => true
  | .cmd9 _ _ => true
  | .cmdA _ _ => true
  | .cmdB _ _ => true
  | .cmdC _ _ => true
  | .cmdD _ _ => true
  | .cmdE _ _ => true
  | .cmdF _ _ => true

/-- R122: the legality predicate, the cells of the table of R121 that are no error. -/
def legal : Instr → Phase → Bool
  | .status _ _, _ => true
  | .init _ _, ph => ph == .uninit || ph == .finalized
  | .ad _ _, ph => ph == .initialized
  | .adEnd _ _, ph => ph == .initialized
  | .enc _ _, ph => ph == .absorbedAd || ph == .encrypting
  | .dec _ _, ph => ph == .absorbedAd || ph == .decrypting
  | .final _ _, ph => ph == .absorbedAd || ph == .encrypting || ph == .decrypting
  | .clear _ _, _ => true
  | .cmd8 _ _, _ => false
  | .cmd9 _ _, _ => false
  | .cmdA _ _, _ => false
  | .cmdB _ _, _ => false
  | .cmdC _ _, _ => false
  | .cmdD _ _, _ => false
  | .cmdE _ _, _ => false
  | .cmdF _ _, _ => false

/-- R172: the permutation call a command makes in a phase, if any; a rejected command makes none. -/
def permCall (i : Instr) (ph : Phase) : Option Rounds :=
  if legal i ph then
    match i with
    | .status _ _ => none
    | .init _ _ => some .long
    | .ad _ _ => some .short
    | .adEnd _ _ => none
    | .enc _ _ => if ph = .encrypting then some .short else none
    | .dec _ _ => if ph = .decrypting then some .short else none
    | .final _ _ => some .long
    | .clear _ _ => none
    | .cmd8 _ _ => none
    | .cmd9 _ _ => none
    | .cmdA _ _ => none
    | .cmdB _ _ => none
    | .cmdC _ _ => none
    | .cmdD _ _ => none
    | .cmdE _ _ => none
    | .cmdF _ _ => none
  else none

/-- R172: the rounds a command runs in a phase. -/
def roundsRun (i : Instr) (ph : Phase) : Nat :=
  match permCall i ph with
  | none => 0
  | some r => r.count

end Sys2Proof.Machine
end

