-- ==== Sys2Proof/Machine/Ops.lean ====
section
/-! DEFINITION. The named operations the meanings share: responding, rejecting (the one error entry of this core,
60_exceptions.md R143), permuting, the legality guard of R123, reset (R160), taking a response (R45), and a loss of
power (R156). The core has no trap entry that saves anything and no return from one (R146). -/

namespace Sys2Proof.Machine

/-- R12: `respond(status, r0, r1)`, the response of the current command, offered in the response registers (R28). -/
def respond (status : Status) (r0 r1 : Word) (s : State) : State :=
  { s with rspValid := true, rsp := ⟨status, r0, r1⟩ }

/-- R143: `reject(code)`. -/
def reject (code : Status) (s : State) : State :=
  respond code 0x0000000000000000 0x0000000000000000 { s with err := true, lastErr := code }

/-- R86: one call of the permutation engine on `S`, the round count given by the select `rsel` (R62; log entry 6). -/
def permuteS (rounds : Rounds) (s : State) : State :=
  { s with S := permute s.subst rounds s.S, rsel := rounds }

/-- R123, R144 (2) and (3): a command with a defined opcode runs its body in a legal phase and is rejected with
ERR_PHASE in every other, before the first statement of the body. -/
def ifLegal (i : Instr) (body : State → State) (s : State) : Host.Outcome State Fault Refusal :=
  .next (if legal i s.phase then body s else reject .errPhase s)

/-- R123, R134, R144 (1): a reserved opcode is rejected with ERR_INVALID whatever the phase. -/
def rejectReserved (s : State) : Host.Outcome State Fault Refusal := .next (reject .errInvalid s)

/-- R132: S, K, phase, ERR and LAST_ERR at their reset values. -/
def clearSession (s : State) : State :=
  { s with S := .zero, K := .zero, phase := .uninit, err := false, lastErr := .ok }

/-- R160, R162: reset. Every register takes its reset value, whatever was in flight. The model's own fields stay, but
that the state is defined again (R156). -/
def resetCore (s : State) : State := { s with toRegs := Regs.reset, lost := false }

/-- R45 (2): `cmd_ready`, with the level of the reset pin. -/
def cmdReady (rst : Bool) (s : State) : Bool := !rst && !s.busy && !s.rspValid

/-- R45 (4): the response is taken; `rsp_valid` falls. R166 (b): the response registers mean nothing from here on, so
they hold a free value (log entry 8). -/
def takeResponse (s : State) : State :=
  { s with rspValid := false, rsp := Config.idleRsp s.fresh, fresh := s.fresh + 1 }

/-- R156, I12: every register is lost (log entry 10). -/
def losePower (s : State) : State :=
  { s with toRegs := Config.lostRegs s.fresh, fresh := s.fresh + 1, lost := true }

/-- R29, R45: the sequencing fields at a command boundary. -/
def idleEngine (s : State) : State := { s with busy := false, rnd := 0, left := 0 }

end Sys2Proof.Machine
end

