-- ==== Sys2Proof/Machine/Control.lean ====
section
/-! DEFINITION. STATUS, CLEAR and the reserved opcodes (42_control.md R130 to R134). -/

namespace Sys2Proof.Machine

/-- R130, the pseudocode. -/
def statusBody (s : State) : State := respond .ok (statusWord s) 0 s

/-- R130: STATUS. Both operands are ignored. -/
def execStatus (d0 d1 : Word) (s : State) : Host.Outcome State Fault Refusal :=
  ifLegal (.status d0 d1) statusBody s

/-- R132, the pseudocode. -/
def clearBody (s : State) : State := respond .ok 0 0 (clearSession s)

/-- R132: CLEAR. Both operands are ignored. -/
def execClear (d0 d1 : Word) (s : State) : Host.Outcome State Fault Refusal :=
  ifLegal (.clear d0 d1) clearBody s

/-- R134, opcode 0x8. Both operands are ignored. -/
def execCmd8 (_d0 _d1 : Word) (s : State) : Host.Outcome State Fault Refusal := rejectReserved s

/-- R134, opcode 0x9. Both operands are ignored. -/
def execCmd9 (_d0 _d1 : Word) (s : State) : Host.Outcome State Fault Refusal := rejectReserved s

/-- R134, opcode 0xA. Both operands are ignored. -/
def execCmdA (_d0 _d1 : Word) (s : State) : Host.Outcome State Fault Refusal := rejectReserved s

/-- R134, opcode 0xB. Both operands are ignored. -/
def execCmdB (_d0 _d1 : Word) (s : State) : Host.Outcome State Fault Refusal := rejectReserved s

/-- R134, opcode 0xC. Both operands are ignored. -/
def execCmdC (_d0 _d1 : Word) (s : State) : Host.Outcome State Fault Refusal := rejectReserved s

/-- R134, opcode 0xD. Both operands are ignored. -/
def execCmdD (_d0 _d1 : Word) (s : State) : Host.Outcome State Fault Refusal := rejectReserved s

/-- R134, opcode 0xE. Both operands are ignored. -/
def execCmdE (_d0 _d1 : Word) (s : State) : Host.Outcome State Fault Refusal := rejectReserved s

/-- R134, opcode 0xF. Both operands are ignored. -/
def execCmdF (_d0 _d1 : Word) (s : State) : Host.Outcome State Fault Refusal := rejectReserved s

end Sys2Proof.Machine
end

