-- ==== Sys2Proof/Machine/Session.lean ====
section
/-! DEFINITION. The six session commands (41_session.md R100 to R119): of each, what it does in a legal phase (its
pseudocode), and its meaning, guarded by the phase. -/

namespace Sys2Proof.Machine

/-- R100, the pseudocode. -/
def initBody (d0 d1 : Word) (s : State) : State :=
  let s := permuteS .long { s with S := .zero }
  respond .ok 0 0 { s with S := s.S.xorTail ⟨d0, d1⟩, K := ⟨d0, d1⟩, phase := .initialized }

/-- R100: INIT. -/
def execInit (d0 d1 : Word) (s : State) : Host.Outcome State Fault Refusal :=
  ifLegal (.init d0 d1) (initBody d0 d1) s

/-- R103, the pseudocode. -/
def adBody (d0 : Word) (s : State) : State :=
  respond .ok 0 0 (permuteS .short { s with S := s.S.xorRate d0 })

/-- R103: AD. `d1` is ignored. -/
def execAd (d0 d1 : Word) (s : State) : Host.Outcome State Fault Refusal :=
  ifLegal (.ad d0 d1) (adBody d0) s

/-- R106, the pseudocode. -/
def adEndBody (s : State) : State :=
  respond .ok 0 0 { s with S := s.S.flipDomain, phase := .absorbedAd }

/-- R106: AD_END. Both operands are ignored. -/
def execAdEnd (d0 d1 : Word) (s : State) : Host.Outcome State Fault Refusal :=
  ifLegal (.adEnd d0 d1) adEndBody s

/-- R109, the pseudocode: every block but the first of the message runs `P6` first (R30). -/
def encBody (d0 : Word) (s : State) : State :=
  let s := if s.phase = .encrypting then permuteS .short s else s
  let c := d0 ^^^ s.S.s0
  respond .ok c 0 { s with S := s.S.setRate c, phase := .encrypting }

/-- R109: ENC. `d1` is ignored. -/
def execEnc (d0 d1 : Word) (s : State) : Host.Outcome State Fault Refusal :=
  ifLegal (.enc d0 d1) (encBody d0) s

/-- R112, the pseudocode: the rate word becomes the block received. -/
def decBody (d0 : Word) (s : State) : State :=
  let s := if s.phase = .decrypting then permuteS .short s else s
  let p := d0 ^^^ s.S.s0
  respond .ok p 0 { s with S := s.S.setRate d0, phase := .decrypting }

/-- R112: DEC. `d1` is ignored. -/
def execDec (d0 d1 : Word) (s : State) : Host.Outcome State Fault Refusal :=
  ifLegal (.dec d0 d1) (decBody d0) s

/-- R115, the pseudocode; the key is the one INIT latched (R23, R102). -/
def finalBody (s : State) : State :=
  let s := permuteS .long { s with S := s.S.xorMid s.K }
  let S := s.S.xorTail s.K
  respond .ok S.s3 S.s4 { s with S := S, phase := .finalized }

/-- R115, R116: FINAL. Both operands are ignored. -/
def execFinal (d0 d1 : Word) (s : State) : Host.Outcome State Fault Refusal :=
  ifLegal (.final d0 d1) finalBody s

end Sys2Proof.Machine
end

