-- ==== Sys2Proof/Machine/Dispatch.lean ====
section
/-! DEFINITION. The dispatch of a command to its meaning (41_session.md R123). -/

namespace Sys2Proof.Machine

def exec (i : Instr) (s : State) : Host.Outcome State Fault Refusal :=
  match i with
  | .status d0 d1 => Sys2Proof.Machine.execStatus d0 d1 s
  | .init d0 d1 => Sys2Proof.Machine.execInit d0 d1 s
  | .ad d0 d1 => Sys2Proof.Machine.execAd d0 d1 s
  | .adEnd d0 d1 => Sys2Proof.Machine.execAdEnd d0 d1 s
  | .enc d0 d1 => Sys2Proof.Machine.execEnc d0 d1 s
  | .dec d0 d1 => Sys2Proof.Machine.execDec d0 d1 s
  | .final d0 d1 => Sys2Proof.Machine.execFinal d0 d1 s
  | .clear d0 d1 => Sys2Proof.Machine.execClear d0 d1 s
  | .cmd8 d0 d1 => Sys2Proof.Machine.execCmd8 d0 d1 s
  | .cmd9 d0 d1 => Sys2Proof.Machine.execCmd9 d0 d1 s
  | .cmdA d0 d1 => Sys2Proof.Machine.execCmdA d0 d1 s
  | .cmdB d0 d1 => Sys2Proof.Machine.execCmdB d0 d1 s
  | .cmdC d0 d1 => Sys2Proof.Machine.execCmdC d0 d1 s
  | .cmdD d0 d1 => Sys2Proof.Machine.execCmdD d0 d1 s
  | .cmdE d0 d1 => Sys2Proof.Machine.execCmdE d0 d1 s
  | .cmdF d0 d1 => Sys2Proof.Machine.execCmdF d0 d1 s

end Sys2Proof.Machine
end

