-- ==== Sys2Proof/Machine/Cycle.lean ====
section
/-! DEFINITION. The cycle-level command port (20_memory.md R45, R46; 70_reset_and_hazards.md R160, R162, R166, R171):
one rising edge of `clk`, and the output pins. -/

namespace Sys2Proof.Machine

/-- R29: the round index shown while the command `i` has `left` cycles to go, below its round count, and 0 where it
runs no permutation (log entry 6). -/
def rndShown (i : Instr) (ph : Phase) (left : Nat) : BitVec 4 :=
  match roundsRun i ph with
  | 0 => 0
  | n + 1 => BitVec.ofNat 4 (Config.roundAt i.opcode ph left % (n + 1))

/-- R62: the round-count select a command drives when it is accepted. -/
def rselDriven (i : Instr) (s : State) : Rounds :=
  match permCall i s.phase with
  | none => s.rsel
  | some r => r

/-- R45 (1): the accepting edge samples the command, whose response is due LAT(op, phase) edges later. -/
def acceptCommand (p : Pins) (s : State) : State :=
  let i := instrOf p.cmdOp p.cmdD0 p.cmdD1
  { s with
    busy := true
    held := frameOf p.cmdOp p.cmdD1 p.cmdD0
    left := Config.lat p.cmdOp s.phase
    rsel := rselDriven i s
    rnd := rndShown i s.phase (Config.lat p.cmdOp s.phase) }

/-- R45 (3): an edge on which the command in flight goes on; nothing the host sees changes (R47). -/
def runOn (s : State) : State :=
  { s with left := s.left - 1, rnd := rndShown (decodeFrame s.held) s.phase (s.left - 1) }

/-- R45, R160: one rising edge of `clk` with the pins `p`. Reset overrides everything (R144, R162). A command in flight
runs on, and takes effect all at once on the edge its response is offered (R45 (3), R47). A pending response waits for
`rsp_ready` (R45 (4)). Only an idle core with no response pending accepts a command (R45 (2)). -/
def clockEdge (p : Pins) (s : State) : Host.Outcome State Fault Refusal :=
  if p.rst then .next (resetCore s)
  else if s.busy then
    if s.left ≤ 1 then exec (decodeFrame s.held) (idleEngine s) else .next (runOn s)
  else if s.rspValid then .next (if p.rspReady then takeResponse s else s)
  else .next (if p.cmdValid then acceptCommand p s else s)

/-- R45, R160: the output pins, with the level of the reset pin. -/
def outputs (rst : Bool) (s : State) : OutPins where
  cmdReady := cmdReady rst s
  rspValid := !rst && s.rspValid
  rspStatus := s.rsp.status.code
  rspR0 := s.rsp.r0
  rspR1 := s.rsp.r1
  phaseO := s.phase.code

/-- Edge after edge with the pins of a list. -/
def clockEdges : List Pins → State → Host.Outcome State Fault Refusal
  | [], s => .next s
  | p :: ps, s =>
    match clockEdge p s with
    | .next t => clockEdges ps t
    | .fault r => .fault r
    | .refused r => .refused r

end Sys2Proof.Machine
end

