-- ==== Sys2Proof/Machine/Port.lean ====
section
/-! DEFINITION. What one input of the host does (20_memory.md R44 to R47; 70_reset_and_hazards.md R160, R166; 60_exceptions.md
R156). -/

namespace Sys2Proof.Machine

/-- R44, R46, R166 (a): a command offered at the transaction level runs if the core is ready for it, and is not executed
if it is not (log entry 3). -/
def offerCommand (f : Frame) (s : State) : Host.Outcome State Fault Refusal :=
  if cmdReady false s then exec (decodeFrame f) s else .next s

/-- R45 (4): the host takes the response, if one is pending. -/
def offerTake (s : State) : State := if s.rspValid && !s.busy then takeResponse s else s

/-- One input of the host. After a loss of power only a reset brings the core back to a defined state (R156): every other
input is refused by name until then (log entry 10). -/
def hostInput : HostInput → State → Host.Outcome State Fault Refusal
  | .reset, s => .next (resetCore s)
  | .powerLoss, s => .next (losePower s)
  | .edge p, s => if s.lost && !p.rst then .refused .stateLost else clockEdge p s
  | .command f, s => if s.lost then .refused .stateLost else offerCommand f s
  | .take, s => if s.lost then .refused .stateLost else .next (offerTake s)

end Sys2Proof.Machine
end

