-- ==== Sys2Proof/Machine/Step.lean ====
section
/-! DEFINITION. One step of the machine: the host's next input. -/

namespace Sys2Proof.Machine

/-- R25, R44: the next input of the host acts on the core. With no input the core keeps all its state (R156). -/
def step (s : State) : Host.Outcome State Fault Refusal :=
  match s.inputs with
  | [] => .next s
  | e :: rest => hostInput e { s with inputs := rest }

/-- `s` with the command of bits `w` (numbered as opcode_table.json numbers them) offered next to a core that is ready for
it: powered, idle and with no response pending. -/
def State.withFetchWord (s : State) (nbits w : Nat) : State :=
  { s with
    inputs := .command (BitVec.ofNat 132 (w % 2 ^ nbits)) :: s.inputs
    busy := false
    rnd := 0
    rspValid := false
    lost := false }

end Sys2Proof.Machine
end

