-- ==== Sys2Proof/Machine/Assembler.lean ====
section
/-! DEFINITION. The assembler syntax (30_encoding.md R63), from the characters of a line to the command. -/

namespace Sys2Proof.Machine

/-- Why a line does not assemble. -/
inductive AsmError where
  /-- the line starts with no mnemonic of R63 -/
  | unknownMnemonic
  /-- the mnemonic has another number of operands -/
  | operandCount
  /-- an operand is not a hexadecimal literal with a `0x` prefix -/
  | badLiteral
  /-- a literal has more than 64 bits -/
  | literalTooWide
  /-- `.cmd` with an opcode that is not one of 8 to F -/
  | notReserved
deriving DecidableEq, Repr

/-- PRESUMED (log entry 13): space and tab separate. -/
def isBlank (c : Char) : Bool := c == ' ' || c == '\t'

/-- Without blanks at either end. -/
def trim (cs : List Char) : List Char := ((cs.dropWhile isBlank).reverse.dropWhile isBlank).reverse

/-- The parts between commas; a text with no comma is one part. -/
def splitCommas : List Char → List (List Char)
  | [] => [[]]
  | c :: cs =>
    if c == ',' then [] :: splitCommas cs
    else
      match splitCommas cs with
      | [] => [[c]]
      | part :: parts => (c :: part) :: parts

/-- A hexadecimal digit. PRESUMED (log entry 13): of either case. -/
def hexDigit (c : Char) : Option Nat :=
  let n := c.toNat
  if 48 ≤ n && n ≤ 57 then some (n - 48)
  else if 97 ≤ n && n ≤ 102 then some (n - 87)
  else if 65 ≤ n && n ≤ 70 then some (n - 55)
  else none

/-- The number of a text of hexadecimal digits, after those already read. -/
def hexDigits : Nat → List Char → Option Nat
  | acc, [] => some acc
  | acc, c :: cs =>
    match hexDigit c with
    | some d => hexDigits (16 * acc + d) cs
    | none => none

/-- R63: a hexadecimal literal with a `0x` prefix. -/
def literal : List Char → Option Nat
  | '0' :: 'x' :: c :: cs => hexDigits 0 (c :: cs)
  | _ => none

/-- All the operands of a line, or none of them. -/
def literals : List (List Char) → Option (List Nat)
  | [] => some []
  | part :: parts =>
    match literal part, literals parts with
    | some n, some ns => some (n :: ns)
    | _, _ => none

/-- R63: the forms of the syntax, each the mnemonic and the line its operands make, where their number fits. -/
def asmForms : List (List Char × (List Nat → Option Asm)) :=
  [(['S', 'T', 'A', 'T', 'U', 'S'], fun | [] => some .status | _ => none),
   (['I', 'N', 'I', 'T'], fun | [k0, k1] => some (.init k0 k1) | _ => none),
   (['A', 'D'], fun | [a] => some (.ad a) | _ => none),
   (['A', 'D', '_', 'E', 'N', 'D'], fun | [] => some .adEnd | _ => none),
   (['E', 'N', 'C'], fun | [p] => some (.enc p) | _ => none),
   (['D', 'E', 'C'], fun | [c] => some (.dec c) | _ => none),
   (['F', 'I', 'N', 'A', 'L'], fun | [] => some .final | _ => none),
   (['C', 'L', 'E', 'A', 'R'], fun | [] => some .clear | _ => none),
   (['.', 'c', 'm', 'd'], fun | [n] => some (.cmd n) | _ => none)]

/-- R63: one line. A `;` starts a comment that runs to the end of the line; a line that has
nothing else, or nothing at all, holds no command (log entry 13: R63 is silent on it). -/
def parseLine (line : List Char) : Except AsmError (Option Asm) :=
  let code := trim (line.takeWhile (fun c => !(c == ';')))
  if code.isEmpty then .ok none
  else
    let mnemonic := code.takeWhile (fun c => !isBlank c)
    let rest := trim (code.drop mnemonic.length)
    match asmForms.find? (fun form => form.1 == mnemonic) with
    | none => .error .unknownMnemonic
    | some form =>
      match (if rest.isEmpty then some [] else literals ((splitCommas rest).map trim)) with
      | none => .error .badLiteral
      | some ns =>
        match form.2 ns with
        | none => .error .operandCount
        | some a => .ok (some a)

/-- R63: the command of a line. `k0`, `a`, `p` and `c` go to `d0`, `k1` goes to `d1`, a shorter literal is zero-extended
and every operand the form omits is zero; a line that is not well formed is rejected by name. -/
def assemble (a : Asm) : Except AsmError Instr :=
  if a.wf then
    match a with
    | .status => .ok (.status 0 0)
    | .init k0 k1 => .ok (.init (BitVec.ofNat 64 k0) (BitVec.ofNat 64 k1))
    | .ad a => .ok (.ad (BitVec.ofNat 64 a) 0)
    | .adEnd => .ok (.adEnd 0 0)
    | .enc p => .ok (.enc (BitVec.ofNat 64 p) 0)
    | .dec c => .ok (.dec (BitVec.ofNat 64 c) 0)
    | .final => .ok (.final 0 0)
    | .clear => .ok (.clear 0 0)
    | .cmd n => .ok (instrOf (BitVec.ofNat 4 n) 0 0)
  else
    match a with
    | .cmd _ => .error .notReserved
    | _ => .error .literalTooWide

/-- R63: the commands of the lines of a program, comment lines left out. -/
def assembleProgram : List (List Char) → Except AsmError (List Instr)
  | [] => .ok []
  | line :: lines =>
    match parseLine line with
    | .error e => .error e
    | .ok none => assembleProgram lines
    | .ok (some a) =>
      match assemble a, assembleProgram lines with
      | .ok i, .ok is => .ok (i :: is)
      | .error e, _ => .error e
      | _, .error e => .error e

end Sys2Proof.Machine
end

