-- ==== Sys2Proof/Machine/Run.lean ====
section
/-! DEFINITION. Runs of commands at the transaction level (70_reset_and_hazards.md R174; 20_memory.md R50), the permutation
calls of a run (41_session.md R120), and the source's operations as sequences of commands (30_encoding.md R64). -/

namespace Sys2Proof.Machine

/-- R174, R50: the commands of a list in order, each answered and its response taken (R45 (4)); the state after the last,
and the responses. None if a command stopped. -/
def runCommands : List Instr → State → Option (State × List Response)
  | [], s => some (s, [])
  | i :: is, s =>
    match exec i s with
    | .next t =>
      match runCommands is (takeResponse t) with
      | some (u, rs) => some (u, t.rsp :: rs)
      | none => none
    | .fault _ => none
    | .refused _ => none

/-- R174: what the host does in a run: it offers each command and takes its response. -/
def offered (is : List Instr) : List HostInput := is.flatMap (fun i => [.command (encode i), .take])

/-- R120: the permutation calls the commands of a run make, in order. -/
def callsOf : List Instr → State → List Rounds
  | [], _ => []
  | i :: is, s =>
    match exec i s with
    | .next t => (permCall i s.phase).toList ++ callsOf is (takeResponse t)
    | .fault _ => []
    | .refused _ => []

/-- Which commands of a run are accepted, in order (R140: accepted means status OK). -/
def acceptedOf : List Instr → State → List Instr
  | [], _ => []
  | i :: is, s =>
    match exec i s with
    | .next t => (if t.rsp.status = .ok then [i] else []) ++ acceptedOf is (takeResponse t)
    | .fault _ => []
    | .refused _ => []

/-- R64: the commands a source operation expands to. The key of `finalize` is not sent (C4, D6). -/
def expand : SourceOp → List Instr
  | .initializeOp key0 key1 => [.init key0 key1]
  | .absorbAssociatedData ad => ad.map (fun a => .ad a 0) ++ [.adEnd 0 0]
  | .encryptBlocks pt => pt.map (fun p => .enc p 0)
  | .decryptBlocks ct => ct.map (fun c => .dec c 0)
  | .finalize _ _ => [.final 0 0]

/-- R100: what `initialize(state, key)` makes of a key. -/
def sourceInitialize (c : SubstChoice) (k : Key) : Sponge := (permute c .long .zero).xorTail k

/-- R104: the absorption of the blocks in order, then R106: the domain-separation flip. -/
def sourceAbsorb (c : SubstChoice) (ad : List Word) (S : Sponge) : Sponge :=
  (ad.foldl (fun S a => permute c .short (S.xorRate a)) S).flipDomain

/-- R109 over a block list: `P6` between blocks only, never before the first of the message (`first`). -/
def sourceEncrypt (c : SubstChoice) : Bool → List Word → Sponge → Sponge × List Word
  | _, [], S => (S, [])
  | first, p :: ps, S =>
    let S := if first then S else permute c .short S
    let x := p ^^^ S.s0
    let (T, xs) := sourceEncrypt c false ps (S.setRate x)
    (T, x :: xs)

/-- R112 over a block list. -/
def sourceDecrypt (c : SubstChoice) : Bool → List Word → Sponge → Sponge × List Word
  | _, [], S => (S, [])
  | first, x :: xs, S =>
    let S := if first then S else permute c .short S
    let p := x ^^^ S.s0
    let (T, ps) := sourceDecrypt c false xs (S.setRate x)
    (T, p :: ps)

/-- R115: what `finalize` makes of the state; the tag is its words 3 and 4. -/
def sourceFinalize (c : SubstChoice) (k : Key) (S : Sponge) : Sponge := (permute c .long (S.xorMid k)).xorTail k

end Sys2Proof.Machine
end

