-- ==== Sys2Proof/Safety.lean ====
section
/-! DEFINITION. What counts as a good state and what a session depends on, in the terms the statements use. -/

namespace Sys2Proof.Safety

open Sys2Proof.Machine

/-- R45 (2), R156: the core is powered, idle and with no response pending, so it accepts the next command. -/
def Ready (s : State) : Prop := s.lost = false ∧ s.busy = false ∧ s.rspValid = false

/-- The architectural state of R133: S, K, phase, ERR and LAST_ERR. -/
def archOf (s : State) : Sponge × Key × Phase × Bool × Status := (s.S, s.K, s.phase, s.err, s.lastErr)

/-- The session (R146, R148): what every command but STATUS computes from. -/
def sessionOf (s : State) : Sponge × Key × Phase := (s.S, s.K, s.phase)

/-- R131, R146: a command that reads neither ERR nor LAST_ERR: every one but STATUS. -/
def readsNoStatus (i : Instr) : Prop := i.opcode ≠ 0x0

/-- The state the permutation call of an accepted command reads (R100, R103, R115: what the command does before it); of a
command that makes no call, the state it starts from. -/
def beforeCall (i : Instr) (s : State) : Sponge :=
  match i with
  | .status _ _ => s.S
  | .init _ _ => .zero
  | .ad d0 _ => s.S.xorRate d0
  | .adEnd _ _ => s.S
  | .enc _ _ => s.S
  | .dec _ _ => s.S
  | .final _ _ => s.S.xorMid s.K
  | .clear _ _ => s.S
  | .cmd8 _ _ => s.S
  | .cmd9 _ _ => s.S
  | .cmdA _ _ => s.S
  | .cmdB _ _ => s.S
  | .cmdC _ _ => s.S
  | .cmdD _ _ => s.S
  | .cmdE _ _ => s.S
  | .cmdF _ _ => s.S

/-- What an accepted command makes of the state its permutation call leaves (R100, R106, R109, R112, R115, R132). -/
def afterCall (i : Instr) (s : State) (P : Sponge) : Sponge :=
  match i with
  | .status _ _ => P
  | .init d0 d1 => P.xorTail ⟨d0, d1⟩
  | .ad _ _ => P
  | .adEnd _ _ => P.flipDomain
  | .enc d0 _ => P.setRate (d0 ^^^ P.s0)
  | .dec d0 _ => P.setRate d0
  | .final _ _ => P.xorTail s.K
  | .clear _ _ => .zero
  | .cmd8 _ _ => P
  | .cmd9 _ _ => P
  | .cmdA _ _ => P
  | .cmdB _ _ => P
  | .cmdC _ _ => P
  | .cmdD _ _ => P
  | .cmdE _ _ => P
  | .cmdF _ _ => P

/-- The command took `s` to `t` and made just this permutation call, or none: the state words of `t` are the command's own
update around that call. -/
def madeCall (i : Instr) (s t : State) (call : Option Rounds) : Prop :=
  t.S = afterCall i s (match call with | none => beforeCall i s | some r => permute s.subst r (beforeCall i s))

/-- R120: the commands run from `s`, each is accepted, and the permutation calls they make are these, in order. -/
def runMakes : List Instr → State → List Rounds → Prop
  | [], _, calls => calls = []
  | i :: is, s, calls =>
    ∃ (t : State) (call : Option Rounds) (rest : List Rounds), exec i s = .next t ∧ t.rsp.status = .ok ∧
      madeCall i s t call ∧ calls = call.toList ++ rest ∧ runMakes is (takeResponse t) rest

/-- R143 written out: what a rejection makes of the state. -/
def rejected (code : Status) (s : State) : State :=
  { s with err := true, lastErr := code, rspValid := true, rsp := ⟨code, 0, 0⟩ }

/-- One row of the table of R121, its six cells in the order of the table's columns. -/
def cells (a b c d e f : Except Status Phase) : Phase → Except Status Phase
  | .uninit => a
  | .initialized => b
  | .absorbedAd => c
  | .encrypting => d
  | .decrypting => e
  | .finalized => f

/-- The phase transition table of R121, row by row: the next phase, or the error of the cell. -/
def phaseTable (i : Instr) : Phase → Except Status Phase :=
  let x := Except.error Status.errPhase
  let r := Except.error Status.errInvalid
  match i with
  | .status _ _ => fun ph => .ok ph
  | .init _ _ => cells (.ok .initialized) x x x x (.ok .initialized)
  | .ad _ _ => cells x (.ok .initialized) x x x x
  | .adEnd _ _ => cells x (.ok .absorbedAd) x x x x
  | .enc _ _ => cells x x (.ok .encrypting) (.ok .encrypting) x x
  | .dec _ _ => cells x x (.ok .decrypting) x (.ok .decrypting) x
  | .final _ _ => cells x x (.ok .finalized) (.ok .finalized) (.ok .finalized) x
  | .clear _ _ => fun _ => .ok .uninit
  | .cmd8 _ _ => fun _ => r
  | .cmd9 _ _ => fun _ => r
  | .cmdA _ _ => fun _ => r
  | .cmdB _ _ => fun _ => r
  | .cmdC _ _ => fun _ => r
  | .cmdD _ _ => fun _ => r
  | .cmdE _ _ => fun _ => r
  | .cmdF _ _ => fun _ => r

/-- The invariant of a defined state. R45 (2), R46: no response is pending while a command executes. R29: the sequencing
fields are idle at a command boundary, and the round index stays below the round count. R45 (3): a command in flight has
an edge to go. R62: the engine's select is the one the command in flight drives. R27: LAST_ERR is set exactly when ERR is.
R143: a pending error response is the one LAST_ERR records, and its words are zero. R121: in UNINIT no session has begun
since reset or CLEAR, so S and K are zero. -/
abbrev Inv (s : State) : Prop :=
  s.lost = false →
    (s.busy = true → s.rspValid = false ∧ 1 ≤ s.left ∧
      (permCall (decodeFrame s.held) s.phase = none ∨ permCall (decodeFrame s.held) s.phase = some s.rsel)) ∧
    (s.busy = false → s.rnd = 0) ∧
    s.rnd.toNat < s.rsel.count ∧
    (s.err = false ↔ s.lastErr = .ok) ∧
    (s.rspValid = true → s.rsp.status ≠ .ok → s.lastErr = s.rsp.status ∧ s.rsp.r0 = 0 ∧ s.rsp.r1 = 0) ∧
    (s.phase = .uninit → s.S = .zero ∧ s.K = .zero)

end Sys2Proof.Safety
end

