-- ==== Sys2Proof/Certificates/Slice0/Obligations.lean ====
section
/-! DEFINITION. The statements about the core, each formalising rules of spec/. -/

open Sys2Proof Sys2Proof.Machine Sys2Proof.Safety

/-! ### Encoding (30_encoding.md) -/

/-- R55, R56, R60: encoding a well-formed command and reading the number back gives that command, with every operand word
at every value. -/
def Obligations.EncodingRoundTrip : Prop :=
  ∀ i : Instr, i.wf = true → decode (encode i).toNat = .ok i

/-- R55, R57: no bit of a frame is dropped: every frame is the frame of the command it decodes to, and every raw number of
132 bits decodes to a command that encodes to it. The model's own choice (log entry 12): a number with a bit above bit 131
is no command and is refused by the name strayBits. -/
def Obligations.DecodingRoundTrip : Prop :=
  (∀ f : Frame, encode (decodeFrame f) = f) ∧
  (∀ w : Nat, w < 2 ^ 132 → ∃ i, decode w = .ok i ∧ (encode i).toNat = w) ∧
  (∀ w : Nat, 2 ^ 132 ≤ w → decode w = .error (.strayBits w))

/-- R57: the table has 16 rows, row k with mask 0xF and 32 zero digits (bits 131:128) and match k in those bits and zeros
elsewhere; every frame fits exactly one row, the one its `op` selects, and decodes to that row's command; the row is one
of the eight commands of R56 or reserved. -/
def Obligations.OpcodeAloneSelects : Prop :=
  opcodeMask = (0xf : Frame) <<< 128 ∧ opcodeTable.length = 16 ∧
  ∀ f : Frame,
    (∀ k, ∀ row ∈ opcodeTable[k]?, row.1 = BitVec.ofNat 132 k <<< 128 ∧
      (f &&& opcodeMask = row.1 ↔ (frameOp f).toNat = k)) ∧
    (∃ row ∈ opcodeTable[(frameOp f).toNat]?, decodeFrame f = row.2 (frameD0 f) (frameD1 f)) ∧
    (reserved (decodeFrame f) = true ↔ 8 ≤ (frameOp f).toNat)

/-- R65: the worked encodings: each line assembles to its command, that command encodes to the number the rule gives, and
the number decodes to the command. -/
def Obligations.WorkedEncodings : Prop :=
  (assembleProgram
      ["STATUS".toList, "INIT 0x0123456789abcdef, 0xfedcba9876543210".toList, "AD 0x1122334455667788".toList,
       "AD_END".toList, "ENC 0x0123456789abcdef".toList, "DEC 0x79c93f8246407ce7".toList, "FINAL".toList,
       "CLEAR".toList, ".cmd 0x9".toList]).map (List.map encode) =
    .ok [0x000000000000000000000000000000000, 0x1fedcba98765432100123456789abcdef, 0x200000000000000001122334455667788,
         0x300000000000000000000000000000000, 0x400000000000000000123456789abcdef, 0x5000000000000000079c93f8246407ce7,
         0x600000000000000000000000000000000, 0x700000000000000000000000000000000, 0x900000000000000000000000000000000] ∧
  [0x000000000000000000000000000000000, 0x1fedcba98765432100123456789abcdef, 0x200000000000000001122334455667788,
   0x300000000000000000000000000000000, 0x400000000000000000123456789abcdef, 0x5000000000000000079c93f8246407ce7,
   0x600000000000000000000000000000000, 0x700000000000000000000000000000000, 0x900000000000000000000000000000000].map decode =
    [.ok (.status 0 0), .ok (.init 0x0123456789abcdef 0xfedcba9876543210), .ok (.ad 0x1122334455667788 0),
     .ok (.adEnd 0 0), .ok (.enc 0x0123456789abcdef 0), .ok (.dec 0x79c93f8246407ce7 0), .ok (.final 0 0),
     .ok (.clear 0 0), .ok (.cmd9 0 0)]

/-- R58: an operand field a command does not use is ignored: two commands of one opcode that agree on the operands used
do the same in every state, so no state and no response depends on the others; no operand value makes a command illegal;
the assembler writes unused operand fields as zero. -/
def Obligations.UnusedOperandsIgnored : Prop :=
  (∀ (i j : Instr) (s : State), i.opcode = j.opcode → (1 ≤ operandsUsed i → i.d0 = j.d0) →
    (2 ≤ operandsUsed i → i.d1 = j.d1) → exec i s = exec j s) ∧
  (∀ (i j : Instr) (ph : Phase), i.opcode = j.opcode → legal i ph = legal j ph ∧ i.wf = true) ∧
  (∀ (a : Asm) (i : Instr), assemble a = .ok i →
    (operandsUsed i < 1 → i.d0 = 0) ∧ (operandsUsed i < 2 → i.d1 = 0))

/-- R63, R59. From the text of a line to the command. A `;` and all after it, and blanks around the line, change nothing. A
line is a mnemonic and its operands separated by commas, each `0x` and hexadecimal digits, blanks allowed around it: with
the operands the form has it reads as that form, with another number it is refused. The assembler takes the lines whose
literals fit 64 bits (`.cmd 0xN` with N from 8 to F), puts `k0`, `a`, `p` and `c` into `d0` and `k1` into `d1`,
zero-extended, and zero into every other operand field. The model's own choice (log entry 13, PRESUMED; R63 and R59 say
nothing of a refusal, nor of a line with no command): a line with nothing but blanks and a comment holds no command, and
every other line is refused by name, a text between commas that is no `0x` literal with blanks around it (empty, with a blank
inside, with no `0x` or with anything but digits after it), a mnemonic R63 does not list, a number of operands the form does
not have, a literal of more than 64 bits and a `.cmd` outside 8 to F each under a name of its own; blanks are space and tab,
and digits may be of either case. -/
def Obligations.AssemblerPlacesOperands : Prop :=
  let blank := fun c : Char => c = ' ' ∨ c = '\t'
  let lower : List Char := ['0', '1', '2', '3', '4', '5', '6', '7', '8', '9', 'a', 'b', 'c', 'd', 'e', 'f']
  let digit := fun c : Char => c ∈ lower ++ ['A', 'B', 'C', 'D', 'E', 'F']
  let value := fun ds : List Char => ds.foldl (fun n c => 16 * n + lower.idxOf c.toLower) 0
  let forms : List (List Char × (List Nat → Option Asm)) :=
    [(['S', 'T', 'A', 'T', 'U', 'S'], fun | [] => some .status | _ => none),
     (['I', 'N', 'I', 'T'], fun | [k0, k1] => some (.init k0 k1) | _ => none),
     (['A', 'D'], fun | [a] => some (.ad a) | _ => none),
     (['A', 'D', '_', 'E', 'N', 'D'], fun | [] => some .adEnd | _ => none),
     (['E', 'N', 'C'], fun | [p] => some (.enc p) | _ => none),
     (['D', 'E', 'C'], fun | [c] => some (.dec c) | _ => none),
     (['F', 'I', 'N', 'A', 'L'], fun | [] => some .final | _ => none),
     (['C', 'L', 'E', 'A', 'R'], fun | [] => some .clear | _ => none),
     (['.', 'c', 'm', 'd'], fun | [n] => some (.cmd n) | _ => none)]
  (∀ line rest : List Char, parseLine (line ++ ';' :: rest) = parseLine line) ∧
  (∀ b line b' : List Char, (∀ c ∈ b ++ b', blank c) → parseLine (b ++ line ++ b') = parseLine line) ∧
  parseLine [] = .ok none ∧
  (∀ form ∈ forms, parseLine form.1 =
    match form.2 [] with | some a => .ok (some a) | none => .error .operandCount) ∧
  (∀ form ∈ forms, ∀ (b : List Char) (operands : List (List Char × List Char × List Char)),
    b ≠ [] → (∀ c ∈ b, blank c) → operands ≠ [] →
    (∀ o ∈ operands, (∀ c ∈ o.1 ++ o.2.2, blank c) ∧ o.2.1 ≠ [] ∧ ∀ c ∈ o.2.1, digit c) →
    parseLine (form.1 ++ b ++ [','].intercalate (operands.map (fun o => o.1 ++ '0' :: 'x' :: o.2.1 ++ o.2.2))) =
      match form.2 (operands.map (fun o => value o.2.1)) with | some a => .ok (some a) | none => .error .operandCount) ∧
  (∀ form ∈ forms, ∀ (b : List Char) (parts : List (List Char)), b ≠ [] → (∀ c ∈ b, blank c) →
    (∀ o ∈ parts, ∀ c ∈ o, c ≠ ',' ∧ c ≠ ';') → (∃ c ∈ [','].intercalate parts, ¬ blank c) →
    (∃ o ∈ parts, ¬ ∃ pre ds post, o = pre ++ '0' :: 'x' :: ds ++ post ∧ (∀ c ∈ pre ++ post, blank c) ∧ ds ≠ [] ∧
      ∀ c ∈ ds, digit c) →
    parseLine (form.1 ++ b ++ [','].intercalate parts) = .error .badLiteral) ∧
  (∀ word rest : List Char, word ≠ [] → (∀ c ∈ word, ¬ blank c ∧ c ≠ ';') → (∀ form ∈ forms, word ≠ form.1) →
    (∀ c ∈ rest.head?, blank c) → parseLine (word ++ rest) = .error .unknownMnemonic) ∧
  (∀ a : Asm, a.wf = true ↔ ∃ i, assemble a = .ok i) ∧
  (∀ k0 k1 : Nat, k0 < 2 ^ 64 → k1 < 2 ^ 64 → ∃ i, assemble (.init k0 k1) = .ok i ∧ i.opcode = 0x1 ∧
    i.d0.toNat = k0 ∧ i.d1.toNat = k1) ∧
  (∀ k0 k1 : Nat, 2 ^ 64 ≤ k0 ∨ 2 ^ 64 ≤ k1 → assemble (.init k0 k1) = .error .literalTooWide) ∧
  (∀ n : Nat, n < 2 ^ 64 →
    (∃ i, assemble (.ad n) = .ok i ∧ i.opcode = 0x2 ∧ i.d0.toNat = n ∧ i.d1 = 0) ∧
    (∃ i, assemble (.enc n) = .ok i ∧ i.opcode = 0x4 ∧ i.d0.toNat = n ∧ i.d1 = 0) ∧
    (∃ i, assemble (.dec n) = .ok i ∧ i.opcode = 0x5 ∧ i.d0.toNat = n ∧ i.d1 = 0)) ∧
  (∀ n : Nat, 2 ^ 64 ≤ n → ∀ a ∈ [Asm.ad n, .enc n, .dec n], assemble a = .error .literalTooWide) ∧
  (assemble .status = .ok (.status 0 0) ∧ assemble .adEnd = .ok (.adEnd 0 0) ∧ assemble .final = .ok (.final 0 0) ∧
    assemble .clear = .ok (.clear 0 0)) ∧
  (∀ n : Nat, 8 ≤ n → n ≤ 15 → ∃ i, assemble (.cmd n) = .ok i ∧ i.opcode.toNat = n ∧ i.d0 = 0 ∧ i.d1 = 0) ∧
  (∀ n : Nat, n < 8 ∨ 15 < n → assemble (.cmd n) = .error .notReserved)

/-! ### The permutation engine (40_permutation.md) -/

/-- R76, R78: round r of a permutation uses constant index `12 - count + r`, which is `(rsel = 0 ? 6 : 0) + r`; so the
short permutation is six rounds with 0x96, 0x87, 0x78, 0x69, 0x5a, 0x4b and the long one twelve with 0xf0 to 0x4b, each
round constant injection, then substitution, then diffusion. -/
def Obligations.PermutationUsesConstantsInOrder : Prop :=
  (∀ (rounds : Rounds) (r : Nat), r < rounds.count →
    (idx rounds r).val = 12 - rounds.count + r ∧ (idx rounds r).val = (if rounds.select = 0 then 6 else 0) + r) ∧
  (∀ (c : SubstChoice) (S : Sponge), permute c .short S =
    ([0x96, 0x87, 0x78, 0x69, 0x5a, 0x4b] : List Word).foldl
      (fun S k => pL (substLayer c { S with s2 := S.s2 ^^^ k })) S) ∧
  (∀ (c : SubstChoice) (S : Sponge), permute c .long S =
    ([0xf0, 0xe1, 0xd2, 0xc3, 0xb4, 0xa5, 0x96, 0x87, 0x78, 0x69, 0x5a, 0x4b] : List Word).foldl
      (fun S k => pL (substLayer c { S with s2 := S.s2 ^^^ k })) S)

/-- R79: constant injection writes `S[2]` only, and of it only bits 7:0. -/
def Obligations.ConstantInjectionTouchesLowByte : Prop :=
  (∀ (S : Sponge) (i : Fin 16), i.val ≤ 11 →
    (pC S i).s2 = S.s2 ^^^ rc i ∧ (∀ j, 8 ≤ j → (pC S i).s2.getLsbD j = S.s2.getLsbD j) ∧
    (pC S i).s0 = S.s0 ∧ (pC S i).s1 = S.s1 ∧ (pC S i).s3 = S.s3 ∧ (pC S i).s4 = S.s4) ∧
  (∀ (rounds : Rounds) (r : Nat), r < rounds.count → (idx rounds r).val ≤ 11) ∧
  pC ⟨0, 0, 0, 0, 0⟩ 0 = ⟨0, 0, 0x00000000000000f0, 0, 0⟩

/-- R83: the default substitution layer works column by column: output column j is `SBOX5` of input column j, `S[0]`
giving the most significant bit; the table holds each of the 32 values exactly once, so the layer is a bijection
(R80 (e)). -/
def Obligations.DefaultSubstitutionIsColumnBox : Prop :=
  let box : List Nat :=
    [0x04, 0x0b, 0x1f, 0x14, 0x1a, 0x15, 0x09, 0x02, 0x1b, 0x05, 0x08, 0x12, 0x1d, 0x03, 0x06, 0x1c, 0x1e, 0x13, 0x07,
     0x0e, 0x00, 0x0d, 0x11, 0x18, 0x10, 0x0c, 0x01, 0x19, 0x16, 0x0a, 0x0f, 0x17]
  (∀ v : Nat, v < 32 → box.count v = 1) ∧ box.length = 32 ∧ SubstBijective .default ∧
  ∀ (S : Sponge) (j : Nat), j < 64 →
    let b := fun (w : Word) => (w.getLsbD j).toNat
    let T := substDefault S
    box[b S.s0 * 16 + b S.s1 * 8 + b S.s2 * 4 + b S.s3 * 2 + b S.s4]? =
      some (b T.s0 * 16 + b T.s1 * 8 + b T.s2 * 4 + b T.s3 * 2 + b T.s4)

/-- R84, R85: bit j of each word after the diffusion layer is the exclusive-or of bits j, j + a and j + b (modulo 64) of
that word before it, with the rotation amounts of the table; a set bit k alone becomes the bits k, k - a and k - b; the
all-zero and the all-ones state stay as they are. -/
def Obligations.DiffusionBitByBit : Prop :=
  (∀ (S : Sponge) (j : Nat), j < 64 →
    let bit := fun (w : Word) (a b : Nat) => ((w.getLsbD j ^^ w.getLsbD ((j + a) % 64)) ^^ w.getLsbD ((j + b) % 64))
    (pL S).s0.getLsbD j = bit S.s0 19 28 ∧ (pL S).s1.getLsbD j = bit S.s1 61 39 ∧ (pL S).s2.getLsbD j = bit S.s2 1 6 ∧
    (pL S).s3.getLsbD j = bit S.s3 10 17 ∧ (pL S).s4.getLsbD j = bit S.s4 7 41) ∧
  (∀ k j : Nat, k < 64 → j < 64 →
    let w : Word := 1 <<< k
    let three := fun (a b : Nat) => decide (j = k ∨ j = (k + 64 - a) % 64 ∨ j = (k + 64 - b) % 64)
    (pL ⟨w, w, w, w, w⟩).s0.getLsbD j = three 19 28 ∧ (pL ⟨w, w, w, w, w⟩).s1.getLsbD j = three 61 39 ∧
    (pL ⟨w, w, w, w, w⟩).s2.getLsbD j = three 1 6 ∧ (pL ⟨w, w, w, w, w⟩).s3.getLsbD j = three 10 17 ∧
    (pL ⟨w, w, w, w, w⟩).s4.getLsbD j = three 7 41) ∧
  (let u : Word := 0xffffffffffffffff
   pL ⟨0, 0, 0, 0, 0⟩ = ⟨0, 0, 0, 0, 0⟩ ∧ pL ⟨u, u, u, u, u⟩ = ⟨u, u, u, u, u⟩) ∧
  pL ⟨0x1, 0, 0, 0, 0⟩ = ⟨0x0000201000000001, 0, 0, 0, 0⟩

/-- R80 (e): the diffusion layer is a bijection, whatever the substitution layer. -/
def Obligations.DiffusionBijective : Prop :=
  Function.Bijective pL

/-- R80 (e), R86: under the named assumption that the instance's substitution layer is a bijection, the permutation of
either round count is one. -/
def Obligations.PermutationBijective : Prop :=
  ∀ (c : SubstChoice) (rounds : Rounds), SubstBijective c → Function.Bijective (permute c rounds)

/-! ### The session commands (41_session.md). In each, `rsel := t.rsel` leaves open what the hidden round-count select
of R29 holds after the command; every other field of the state is stated. -/

/-- R100: INIT has opcode 0x1. In UNINIT and FINALIZED it answers with a next state: S is `P12(0)` with the key words in
words 3 and 4, K is latched, the phase is INITIALIZED, the response (OK, 0, 0), everything else as before. In the other
phases it is rejected with ERR_PHASE. With the default substitution layer the example of the rule holds. -/
def Obligations.InitRule : Prop :=
  (∀ d0 d1 : Word, decodeFrame (0x1#4 ++ d1 ++ d0) = .init d0 d1) ∧
  (∀ (d0 d1 : Word) (s : State), s.phase = .uninit ∨ s.phase = .finalized →
    ∃ t, exec (.init d0 d1) s = .next t ∧
      let P := permute s.subst .long ⟨0, 0, 0, 0, 0⟩
      t = { s with
        S := ⟨P.s0, P.s1, P.s2, P.s3 ^^^ d0, P.s4 ^^^ d1⟩, K := ⟨d0, d1⟩, phase := .initialized,
        rspValid := true, rsp := ⟨.ok, 0, 0⟩, rsel := t.rsel }) ∧
  (∀ (d0 d1 : Word) (s : State), ¬ (s.phase = .uninit ∨ s.phase = .finalized) →
    exec (.init d0 d1) s = .next (rejected .errPhase s)) ∧
  (∀ s t : State, s.subst = .default → (s.phase = .uninit ∨ s.phase = .finalized) →
    exec (.init 0x0123456789abcdef 0xfedcba9876543210) s = .next t →
    t.S = ⟨0x78ea7ae5cfebb108, 0x9b9bfb8513b560f7, 0x6937f83e03d11a50, 0x3ec67a517b6ada63, 0xfa81de163bbb20d9⟩)

/-- R103: AD has opcode 0x2. In INITIALIZED it answers with a next state: the block enters the rate word, then `P6` runs;
the response is (OK, 0, 0), everything else, the phase too, as before. In the other phases it is rejected with ERR_PHASE.
With the default substitution layer the example of the rule holds. -/
def Obligations.AdRule : Prop :=
  (∀ d0 d1 : Word, decodeFrame (0x2#4 ++ d1 ++ d0) = .ad d0 d1) ∧
  (∀ (d0 d1 : Word) (s : State), s.phase = .initialized →
    ∃ t, exec (.ad d0 d1) s = .next t ∧
      t = { s with
        S := permute s.subst .short ⟨s.S.s0 ^^^ d0, s.S.s1, s.S.s2, s.S.s3, s.S.s4⟩,
        rspValid := true, rsp := ⟨.ok, 0, 0⟩, rsel := t.rsel }) ∧
  (∀ (d0 d1 : Word) (s : State), s.phase ≠ .initialized → exec (.ad d0 d1) s = .next (rejected .errPhase s)) ∧
  (∀ s t : State, s.subst = .default → s.phase = .initialized →
    s.S = ⟨0x78ea7ae5cfebb108, 0x9b9bfb8513b560f7, 0x6937f83e03d11a50, 0x3ec67a517b6ada63, 0xfa81de163bbb20d9⟩ →
    exec (.ad 0x1122334455667788 0) s = .next t →
    t.S = ⟨0xddc814bb086ac32c, 0x1922b1b4645e71c9, 0x202b6082e2e4b584, 0x24774cfbf3150180, 0x0260589b1dfe25a0⟩)

/-- R106: AD_END has opcode 0x3. In INITIALIZED it answers with a next state: bit 0 of `S[4]` is flipped, the phase is
ABSORBED_AD, the response (OK, 0, 0), everything else as before; a second AD_END right after it is rejected. In the other
phases it is rejected with ERR_PHASE. The example of the rule holds. -/
def Obligations.AdEndRule : Prop :=
  (∀ d0 d1 : Word, decodeFrame (0x3#4 ++ d1 ++ d0) = .adEnd d0 d1) ∧
  (∀ (d0 d1 : Word) (s : State), s.phase = .initialized →
    exec (.adEnd d0 d1) s = .next { s with
      S := ⟨s.S.s0, s.S.s1, s.S.s2, s.S.s3, s.S.s4 ^^^ 0x0000000000000001⟩, phase := .absorbedAd,
      rspValid := true, rsp := ⟨.ok, 0, 0⟩ }) ∧
  (∀ (d0 d1 : Word) (s t : State), s.phase = .initialized → exec (.adEnd d0 d1) s = .next t →
    (∀ j, t.S.s4.getLsbD j = (s.S.s4.getLsbD j ^^ decide (j = 0))) ∧
    (s.S.s4 = 0xfa81de163bbb20d9 → t.S.s4 = 0xfa81de163bbb20d8) ∧
    ∀ d0' d1', exec (.adEnd d0' d1') t = .next (rejected .errPhase t)) ∧
  (∀ (d0 d1 : Word) (s : State), s.phase ≠ .initialized → exec (.adEnd d0 d1) s = .next (rejected .errPhase s))

/-- R109: ENC has opcode 0x4. In ABSORBED_AD and ENCRYPTING it answers with a next state: the ciphertext block is the
plaintext block xor the rate word, after a `P6` in ENCRYPTING only; it is returned and becomes the rate word; the phase is
ENCRYPTING, everything else as before. In the other phases it is rejected with ERR_PHASE. With the default substitution
layer the example of the rule holds. -/
def Obligations.EncRule : Prop :=
  (∀ d0 d1 : Word, decodeFrame (0x4#4 ++ d1 ++ d0) = .enc d0 d1) ∧
  (∀ (d0 d1 : Word) (s : State), s.phase = .absorbedAd →
    exec (.enc d0 d1) s = .next { s with
      S := ⟨d0 ^^^ s.S.s0, s.S.s1, s.S.s2, s.S.s3, s.S.s4⟩, phase := .encrypting,
      rspValid := true, rsp := ⟨.ok, d0 ^^^ s.S.s0, 0⟩ }) ∧
  (∀ (d0 d1 : Word) (s : State), s.phase = .encrypting →
    ∃ t, exec (.enc d0 d1) s = .next t ∧
      let P := permute s.subst .short s.S
      t = { s with
        S := ⟨d0 ^^^ P.s0, P.s1, P.s2, P.s3, P.s4⟩, phase := .encrypting,
        rspValid := true, rsp := ⟨.ok, d0 ^^^ P.s0, 0⟩, rsel := t.rsel }) ∧
  (∀ (d0 d1 : Word) (s : State), ¬ (s.phase = .absorbedAd ∨ s.phase = .encrypting) →
    exec (.enc d0 d1) s = .next (rejected .errPhase s)) ∧
  (∀ s : State, s.subst = .default → (s.phase = .uninit ∨ s.phase = .finalized) →
    ∃ t x y, runCommands
        [.init 0x0123456789abcdef 0xfedcba9876543210, .adEnd 0 0, .enc 0x0123456789abcdef 0] s =
      some (t, [x, y, ⟨.ok, 0x79c93f8246407ce7, 0⟩]))

/-- R112: DEC has opcode 0x5. In ABSORBED_AD and DECRYPTING it answers with a next state: the plaintext block is the
ciphertext block xor the rate word, after a `P6` in DECRYPTING only; it is returned, and the block received becomes the
rate word; the phase is DECRYPTING, everything else as before. In the other phases it is rejected with ERR_PHASE. A bit
flipped in the block flips the same bit of the answer. With the default substitution layer the example holds. -/
def Obligations.DecRule : Prop :=
  (∀ d0 d1 : Word, decodeFrame (0x5#4 ++ d1 ++ d0) = .dec d0 d1) ∧
  (∀ (d0 d1 : Word) (s : State), s.phase = .absorbedAd →
    exec (.dec d0 d1) s = .next { s with
      S := ⟨d0, s.S.s1, s.S.s2, s.S.s3, s.S.s4⟩, phase := .decrypting,
      rspValid := true, rsp := ⟨.ok, d0 ^^^ s.S.s0, 0⟩ }) ∧
  (∀ (d0 d1 : Word) (s : State), s.phase = .decrypting →
    ∃ t, exec (.dec d0 d1) s = .next t ∧
      let P := permute s.subst .short s.S
      t = { s with
        S := ⟨d0, P.s1, P.s2, P.s3, P.s4⟩, phase := .decrypting,
        rspValid := true, rsp := ⟨.ok, d0 ^^^ P.s0, 0⟩, rsel := t.rsel }) ∧
  (∀ (d0 d1 : Word) (s : State), ¬ (s.phase = .absorbedAd ∨ s.phase = .decrypting) →
    exec (.dec d0 d1) s = .next (rejected .errPhase s)) ∧
  (∀ (c m d1 : Word) (s t u : State), s.phase = .absorbedAd ∨ s.phase = .decrypting → exec (.dec c d1) s = .next t →
    exec (.dec (c ^^^ m) d1) s = .next u → u.rsp.r0 = t.rsp.r0 ^^^ m) ∧
  (∀ s : State, s.subst = .default → (s.phase = .uninit ∨ s.phase = .finalized) →
    ∃ t x y, runCommands
        [.init 0x0123456789abcdef 0xfedcba9876543210, .adEnd 0 0, .dec 0x79c93f8246407ce7 0] s =
      some (t, [x, y, ⟨.ok, 0x0123456789abcdef, 0⟩]))

/-- R115: FINAL has opcode 0x6. In ABSORBED_AD, ENCRYPTING and DECRYPTING it answers with a next state: the latched key
enters words 1 and 2, `P12` runs, the key enters words 3 and 4, which are returned as the tag; the phase is FINALIZED,
everything else, K too, as before. In the other phases it is rejected with ERR_PHASE. With the default substitution layer
the example of the rule holds. -/
def Obligations.FinalRule : Prop :=
  (∀ d0 d1 : Word, decodeFrame (0x6#4 ++ d1 ++ d0) = .final d0 d1) ∧
  (∀ (d0 d1 : Word) (s : State), s.phase = .absorbedAd ∨ s.phase = .encrypting ∨ s.phase = .decrypting →
    ∃ t, exec (.final d0 d1) s = .next t ∧
      let P := permute s.subst .long ⟨s.S.s0, s.S.s1 ^^^ s.K.k0, s.S.s2 ^^^ s.K.k1, s.S.s3, s.S.s4⟩
      t = { s with
        S := ⟨P.s0, P.s1, P.s2, P.s3 ^^^ s.K.k0, P.s4 ^^^ s.K.k1⟩, phase := .finalized,
        rspValid := true, rsp := ⟨.ok, P.s3 ^^^ s.K.k0, P.s4 ^^^ s.K.k1⟩, rsel := t.rsel }) ∧
  (∀ (d0 d1 : Word) (s : State), s.phase = .uninit ∨ s.phase = .initialized ∨ s.phase = .finalized →
    exec (.final d0 d1) s = .next (rejected .errPhase s)) ∧
  (∀ s : State, s.subst = .default → (s.phase = .uninit ∨ s.phase = .finalized) →
    ∃ t x y z, runCommands
        [.init 0x0123456789abcdef 0xfedcba9876543210, .adEnd 0 0, .enc 0x0123456789abcdef 0, .final 0 0] s =
      some (t, [x, y, z, ⟨.ok, 0xff6d68e37cc0a9e6, 0xf425e23823976c17⟩]))

/-! ### STATUS, CLEAR and the reserved opcodes (42_control.md) -/

/-- R130: STATUS has opcode 0x0. In every phase it answers with a next state that differs in the response only: OK, the
status word, 0. Bits 63:6 of the word are 0. Both examples of the rule hold. -/
def Obligations.StatusRule : Prop :=
  (∀ d0 d1 : Word, decodeFrame (0x0#4 ++ d1 ++ d0) = .status d0 d1) ∧
  (∀ (d0 d1 : Word) (s : State),
    exec (.status d0 d1) s = .next { s with
      rspValid := true,
      rsp := ⟨.ok, (s.lastErr.code.zeroExtend 64 <<< 4) ||| ((BitVec.ofBool s.err).zeroExtend 64 <<< 3) |||
        s.phase.code.zeroExtend 64, 0⟩ }) ∧
  (∀ (d0 d1 : Word) (s t : State), exec (.status d0 d1) s = .next t →
    ∀ j, 6 ≤ j → t.rsp.r0.getLsbD j = false) ∧
  (∃ t, exec (.status 0 0) State.reset = .next t ∧ t.rsp = ⟨.ok, 0x0000000000000000, 0⟩) ∧
  (∀ (k0 k1 : Word), ∃ t x y, runCommands [.init k0 k1, .final 0 0, .status 0 0] State.reset =
    some (t, [x, y, ⟨.ok, 0x0000000000000019, 0⟩]))

/-- R132: CLEAR has opcode 0x7. In every phase it answers with a next state: S, K, the phase, ERR and LAST_ERR zero, the
response (OK, 0, 0), everything else as before. It is idempotent, changes nothing in UNINIT with no error recorded, and a
STATUS after it reads 0. R133: the architectural state after it is the one after reset, but CLEAR produces a response, and
reset produces none and drops a pending one. -/
def Obligations.ClearRule : Prop :=
  (∀ d0 d1 : Word, decodeFrame (0x7#4 ++ d1 ++ d0) = .clear d0 d1) ∧
  (∀ (d0 d1 : Word) (s : State),
    exec (.clear d0 d1) s = .next { s with
      S := ⟨0, 0, 0, 0, 0⟩, K := ⟨0, 0⟩, phase := .uninit, err := false, lastErr := .ok,
      rspValid := true, rsp := ⟨.ok, 0, 0⟩ }) ∧
  (∀ (d0 d1 e0 e1 : Word) (s t : State), exec (.clear d0 d1) s = .next t →
    exec (.clear e0 e1) t = .next t ∧
    ∃ u, exec (.status e0 e1) t = .next u ∧ u.rsp.r0 = 0x0000000000000000) ∧
  (∀ (d0 d1 : Word) (s t : State), Inv s → s.lost = false → s.phase = .uninit → s.err = false →
    exec (.clear d0 d1) s = .next t → archOf t = archOf s) ∧
  (∀ (d0 d1 : Word) (s : State), ∃ t, exec (.clear d0 d1) s = .next t ∧
    archOf t = archOf State.reset ∧ archOf t = archOf (resetCore s) ∧
    t.rspValid = true ∧ t.rsp = ⟨.ok, 0, 0⟩ ∧ (resetCore s).rspValid = false)

/-- R134: the reserved opcodes 0x8 to 0xF (CMD8 to CMDF) answer in every phase and with every operand with a next state:
ERR and LAST_ERR written, the response (ERR_INVALID, 0, 0), everything else as before. The example of the rule holds. -/
def Obligations.ReservedRule : Prop :=
  (∀ (op : BitVec 4) (d0 d1 : Word) (s : State), 8 ≤ op.toNat →
    (decodeFrame (op ++ d1 ++ d0)).opcode = op ∧
    exec (decodeFrame (op ++ d1 ++ d0)) s = .next { s with
      err := true, lastErr := .errInvalid, rspValid := true, rsp := ⟨.errInvalid, 0, 0⟩ }) ∧
  (∀ (i : Instr) (s : State), reserved i = true →
    exec i s = .next { s with
      err := true, lastErr := .errInvalid, rspValid := true, rsp := ⟨.errInvalid, 0, 0⟩ }) ∧
  (∀ s : State, s.phase = .absorbedAd → ∃ t x y, runCommands [.cmd9 0 0, .status 0 0] s = some (t, [x, y]) ∧
    x.status.code = 2 ∧ y.r0 = 0x000000000000002a)

/-! ### Errors (60_exceptions.md) and the step function (R123) -/

/-- R143, R144: every command in every state answers with a next state: a reserved opcode is rejected with ERR_INVALID
whatever the phase; else a command illegal in the phase is rejected with ERR_PHASE, nothing else changed; else it is
accepted with status OK and ERR and LAST_ERR as they were, or cleared by CLEAR. Reset overrides everything. -/
def Obligations.StepFunctionOrder : Prop :=
  ∀ (i : Instr) (s : State),
    (reserved i = true → exec i s = .next (rejected .errInvalid s)) ∧
    (reserved i = false → legal i s.phase = false → exec i s = .next (rejected .errPhase s)) ∧
    (reserved i = false → legal i s.phase = true →
      ∃ t, exec i s = .next t ∧ t.rspValid = true ∧ t.rsp.status = .ok ∧
        (i.opcode ≠ 0x7 → t.err = s.err ∧ t.lastErr = s.lastErr) ∧
        (i.opcode = 0x7 → t.err = false ∧ t.lastErr = .ok)) ∧
    (∀ p : Pins, p.rst = true → clockEdge p s = .next (resetCore s))

/-- R140, R141, R142: ERR_PHASE is raised by the opcodes 0x1 to 0x6 exactly when the command is not legal in the phase;
ERR_INVALID by every command of opcode 0x8 to 0xF and no other; every other command is accepted; the code is recorded in
LAST_ERR with ERR set. -/
def Obligations.ErrorCauses : Prop :=
  ∀ (i : Instr) (s t : State), exec i s = .next t →
    (t.rsp.status = .errPhase ↔ (1 ≤ i.opcode.toNat ∧ i.opcode.toNat ≤ 6 ∧ legal i s.phase = false)) ∧
    (t.rsp.status = .errInvalid ↔ 8 ≤ i.opcode.toNat) ∧
    (t.rsp.status ≠ .ok → t.err = true ∧ t.lastErr = t.rsp.status ∧ t.rsp.r0 = 0 ∧ t.rsp.r1 = 0) ∧
    (i.opcode = 0x0 ∨ i.opcode = 0x7 → ∀ ph, legal i ph = true)

/-- R121, R122: the phase transition table, cell by cell, with `P6` first in the two cells the table marks; `legal` is
true exactly for the cells that are no error. -/
def Obligations.PhaseTransitionTable : Prop :=
  ∀ (i : Instr) (s : State), ∃ t, exec i s = .next t ∧
    (∀ ph, phaseTable i s.phase = .ok ph → t.phase = ph ∧ t.rsp.status = .ok) ∧
    (∀ code, phaseTable i s.phase = .error code → t.phase = s.phase ∧ t.rsp.status = code) ∧
    (legal i s.phase = true ↔ ∃ ph, phaseTable i s.phase = .ok ph) ∧
    ((i.opcode = 0x4 ∧ s.phase = .encrypting) ∨ (i.opcode = 0x5 ∧ s.phase = .decrypting) →
      (t.S.s1, t.S.s2, t.S.s3, t.S.s4) =
        ((permute s.subst .short s.S).s1, (permute s.subst .short s.S).s2, (permute s.subst .short s.S).s3,
         (permute s.subst .short s.S).s4))

/-- R146: a rejected command leaves no trace but ERR and LAST_ERR: whatever commands but STATUS follow, they answer as if
it had never been sent, and leave the same S, K and phase. -/
def Obligations.RejectionLeavesNoTrace : Prop :=
  ∀ (i : Instr) (js : List Instr) (s : State), legal i s.phase = false → (∀ j ∈ js, readsNoStatus j) →
    ∃ t u rs r, runCommands js s = some (t, rs) ∧ runCommands (i :: js) s = some (u, r :: rs) ∧
      r.r0 = 0 ∧ r.r1 = 0 ∧ r.status ≠ .ok ∧ sessionOf u = sessionOf t

/-- R148: any number of rejections in a row leave the session where it was; each sets ERR and overwrites LAST_ERR with
its own code; every other command but CLEAR, STATUS among them, leaves ERR and LAST_ERR alone, and CLEAR and reset clear
them. -/
def Obligations.RejectionsInARow : Prop :=
  (∀ (is : List Instr) (i : Instr) (s : State), (∀ j ∈ is ++ [i], legal j s.phase = false) →
    ∃ t rs, runCommands (is ++ [i]) s = some (t, rs) ∧ sessionOf t = sessionOf s ∧ t.err = true ∧
      t.lastErr = (if reserved i then .errInvalid else .errPhase)) ∧
  (∀ (i : Instr) (s t : State), i.opcode ≠ 0x7 → legal i s.phase = true → exec i s = .next t →
    t.err = s.err ∧ t.lastErr = s.lastErr) ∧
  (∀ (d0 d1 : Word) (s : State), (∃ t, exec (.clear d0 d1) s = .next t ∧ t.err = false ∧ t.lastErr = .ok ∧
    t.phase = .uninit) ∧ (resetCore s).err = false ∧ (resetCore s).lastErr = .ok)

/-! ### State and its writers (10_state.md) -/

/-- R27: the layout of the status word for every state, ERR sticky, and both fields cleared by CLEAR and reset only. R61:
the layout of a response, 130 bits, status above `r1` above `r0`; its status is 0 exactly for a command accepted, 1 exactly
for a defined opcode not legal in the phase, 2 exactly for a reserved opcode, and never 3. -/
def Obligations.StatusWordLayout : Prop :=
  (∀ (d0 d1 : Word) (s : State), ∃ t, exec (.status d0 d1) s = .next t ∧
    t.rsp.r0.extractLsb' 0 3 = s.phase.code ∧ t.rsp.r0.getLsbD 3 = s.err ∧
    t.rsp.r0.extractLsb' 4 2 = s.lastErr.code ∧ t.rsp.r0.extractLsb' 6 58 = 0) ∧
  (∀ (i : Instr) (s t : State), exec i s = .next t →
    (t.rsp.status ≠ .ok → t.err = true ∧ t.lastErr = t.rsp.status) ∧
    (t.rsp.status = .ok → i.opcode ≠ 0x7 → t.err = s.err ∧ t.lastErr = s.lastErr) ∧
    (i.opcode = 0x7 → t.err = false ∧ t.lastErr = .ok)) ∧
  (∀ s : State, (resetCore s).err = false ∧ (resetCore s).lastErr = .ok ∧ statusWord (resetCore s) = 0) ∧
  (∀ r : Response, r.encode.extractLsb' 128 2 = r.status.code ∧ r.encode.extractLsb' 64 64 = r.r1 ∧
    r.encode.extractLsb' 0 64 = r.r0 ∧ r.encode.extractLsb' 128 2 ≠ 3) ∧
  (∀ (i : Instr) (s t : State), exec i s = .next t →
    (t.rsp.encode.extractLsb' 128 2 = 0 ↔ reserved i = false ∧ legal i s.phase = true) ∧
    (t.rsp.encode.extractLsb' 128 2 = 1 ↔ reserved i = false ∧ legal i s.phase = false) ∧
    (t.rsp.encode.extractLsb' 128 2 = 2 ↔ reserved i = true))

/-- R23, R102: only an accepted INIT writes the key, with its operands; CLEAR (and reset) zero it; every other command
keeps it. -/
def Obligations.KeyWriters : Prop :=
  ∀ (i : Instr) (s t : State), exec i s = .next t →
    (i.opcode = 0x1 → legal i s.phase = true → t.K = ⟨i.d0, i.d1⟩) ∧
    (i.opcode = 0x7 → t.K = ⟨0, 0⟩) ∧
    (¬ (i.opcode = 0x1 ∧ legal i s.phase = true) → i.opcode ≠ 0x7 → t.K = s.K) ∧
    (resetCore s).K = ⟨0, 0⟩

/-- R23, R100, R115: the key held before a command reaches nothing but FINAL. R23 lets INIT and FINAL read the key; INIT's
injection step takes the key of its own operands, so it does not depend on the one held before (R100). With another key in
the register every command but FINAL gives the same response and the same state but for the key it keeps; and FINAL answers
with the tag, the words 3 and 4 of the state it leaves, or with zeros where it is rejected (R115, R143). -/
def Obligations.KeyReadByFinalOnly : Prop :=
  (∀ (i : Instr) (s t : State) (k : Key), i.opcode ≠ 0x6 → exec i s = .next t →
    ∃ u, exec i { s with K := k } = .next u ∧ u = { t with K := u.K } ∧ u.rsp = t.rsp ∧
      (u.K = t.K ∨ (t.K = s.K ∧ u.K = k))) ∧
  (∀ (d0 d1 : Word) (s t : State), exec (.final d0 d1) s = .next t →
    t.rsp = (if legal (.final d0 d1) s.phase then ⟨.ok, t.S.s3, t.S.s4⟩ else ⟨.errPhase, 0, 0⟩))

/-- R105: AD neither writes nor reads the key, and its response words are always zero. -/
def Obligations.AdLeavesKeyAndReturnsNothing : Prop :=
  ∀ (d0 d1 : Word) (s : State), ∃ t, exec (.ad d0 d1) s = .next t ∧ t.K = s.K ∧ t.rsp.r0 = 0 ∧ t.rsp.r1 = 0 ∧
    ∀ k, exec (.ad d0 d1) { s with K := k } = .next { t with K := k }

/-- R21, R22: which words of the state each command may change; and the block of an ENC or DEC reaches the rate word only,
for the capacity words after the command do not depend on it. -/
def Obligations.StateWordWriters : Prop :=
  ∀ (i : Instr) (s t : State), exec i s = .next t →
    (legal i s.phase = false → t.S = s.S) ∧
    (i.opcode = 0x0 → t.S = s.S) ∧
    (i.opcode = 0x3 → t.S.s0 = s.S.s0 ∧ t.S.s1 = s.S.s1 ∧ t.S.s2 = s.S.s2 ∧ t.S.s3 = s.S.s3 ∧
      t.S.s4 >>> 1 = s.S.s4 >>> 1) ∧
    (i.opcode = 0x4 ∨ i.opcode = 0x5 → s.phase = .absorbedAd →
      t.S.s1 = s.S.s1 ∧ t.S.s2 = s.S.s2 ∧ t.S.s3 = s.S.s3 ∧ t.S.s4 = s.S.s4) ∧
    (i.opcode = 0x7 → t.S = ⟨0, 0, 0, 0, 0⟩) ∧
    (∀ (j : Instr) (u : State), i.opcode = j.opcode → i.opcode = 0x4 ∨ i.opcode = 0x5 → exec j s = .next u →
      t.S.s1 = u.S.s1 ∧ t.S.s2 = u.S.s2 ∧ t.S.s3 = u.S.s3 ∧ t.S.s4 = u.S.s4)

/-- R110: after every accepted ENC and DEC, `S[0]` holds the ciphertext block of the command: the value returned, or the
value received. -/
def Obligations.RateHoldsCiphertext : Prop :=
  ∀ (d0 d1 : Word) (s t : State),
    (exec (.enc d0 d1) s = .next t → t.rsp.status = .ok → t.S.s0 = t.rsp.r0) ∧
    (exec (.dec d0 d1) s = .next t → t.rsp.status = .ok → t.S.s0 = d0)

/-- R34: an accepted FINAL leaves the tag in `S[3]` and `S[4]` and returns it; the words stay until a new INIT, a CLEAR or
a reset. R117: in FINALIZED every session command but INIT is rejected with ERR_PHASE; STATUS and CLEAR stay legal, and
INIT starts a new session. -/
def Obligations.TagStaysUntilNewSession : Prop :=
  (∀ (d0 d1 : Word) (s t : State), exec (.final d0 d1) s = .next t → legal (.final d0 d1) s.phase = true →
    t.phase = .finalized ∧ t.rsp = ⟨.ok, t.S.s3, t.S.s4⟩) ∧
  (∀ (is : List Instr) (s t : State) (rs : List Response), s.phase = .finalized →
    (∀ i ∈ is, i.opcode ≠ 0x1 ∧ i.opcode ≠ 0x7) → runCommands is s = some (t, rs) →
    t.phase = .finalized ∧ t.S = s.S ∧ ∀ p ∈ is.zip rs, p.1.opcode ≠ 0x0 → p.2.r0 = 0 ∧ p.2.r1 = 0) ∧
  (∀ (d0 d1 : Word) (s : State), s.phase = .finalized →
    (∀ i ∈ [Instr.ad d0 d1, .adEnd d0 d1, .enc d0 d1, .dec d0 d1, .final d0 d1],
      exec i s = .next (rejected .errPhase s)) ∧
    (∃ t, exec (.status d0 d1) s = .next t ∧ t.rsp.status = .ok ∧ t.phase = .finalized) ∧
    (∃ t, exec (.clear d0 d1) s = .next t ∧ t.rsp.status = .ok ∧ t.phase = .uninit ∧ t.S = ⟨0, 0, 0, 0, 0⟩) ∧
    (resetCore s).S = ⟨0, 0, 0, 0, 0⟩ ∧
    (∃ t, exec (.init d0 d1) s = .next t ∧ t.rsp.status = .ok ∧ t.phase = .initialized ∧
      let P := permute s.subst .long ⟨0, 0, 0, 0, 0⟩
      t.S = ⟨P.s0, P.s1, P.s2, P.s3 ^^^ d0, P.s4 ^^^ d1⟩))

/-! ### Sessions (41_session.md) -/

/-- R104: associated-data blocks are absorbed in the order their AD commands are accepted. -/
def Obligations.AbsorbsInOrder : Prop :=
  ∀ (ads : List Word) (s : State), s.phase = .initialized →
    ∃ t rs, runCommands (ads.map (fun a => .ad a 0)) s = some (t, rs) ∧
      t.S = ads.foldl (fun S a => permute s.subst .short ⟨S.s0 ^^^ a, S.s1, S.s2, S.s3, S.s4⟩) s.S ∧
      t.phase = .initialized ∧ t.K = s.K ∧ rs = List.replicate ads.length ⟨.ok, 0, 0⟩

/-- R113: from one state (the direction of a begun message apart), `ENC p` returns c and `DEC c` returns p, and the two
states after are the same but for the phase and the response. -/
def Obligations.EncryptDecryptSymmetric : Prop :=
  ∀ (p d1 : Word) (s e : State),
    (s.phase = .absorbedAd ∧ e = s) ∨ (s.phase = .encrypting ∧ e = { s with phase := .decrypting }) →
    ∃ t u, exec (.enc p d1) s = .next t ∧ exec (.dec t.rsp.r0 d1) e = .next u ∧
      u.rsp = ⟨.ok, p, 0⟩ ∧ t.phase = .encrypting ∧ u.phase = .decrypting ∧
      u = { t with phase := .decrypting, rsp := u.rsp }

/-- R114, R118: the round trip: a fresh decrypt session with the same key and associated data, fed the ciphertext blocks of
the encrypt session, returns its plaintext blocks and its tag, for every number of blocks. -/
def Obligations.SessionRoundTrip : Prop :=
  ∀ (k0 k1 : Word) (ads ps : List Word) (s e : State),
    s.phase = .uninit ∨ s.phase = .finalized → e.phase = .uninit ∨ e.phase = .finalized → e.subst = s.subst →
    ∃ (t u : State) (heads : List Response) (cs : List Word) (tag : Response),
      heads.length = ads.length + 2 ∧ cs.length = ps.length ∧ tag.status = .ok ∧
      runCommands ([.init k0 k1] ++ ads.map (fun a => .ad a 0) ++ [.adEnd 0 0] ++ ps.map (fun p => .enc p 0) ++
          [.final 0 0]) s =
        some (t, heads ++ cs.map (fun c => ⟨.ok, c, 0⟩) ++ [tag]) ∧
      runCommands ([.init k0 k1] ++ ads.map (fun a => .ad a 0) ++ [.adEnd 0 0] ++ cs.map (fun c => .dec c 0) ++
          [.final 0 0]) e =
        some (u, heads ++ ps.map (fun p => ⟨.ok, p, 0⟩) ++ [tag]) ∧
      sessionOf u = sessionOf t

/-- R101: what INIT leaves in words 0 to 2 does not depend on the key; with no associated data the first ciphertext block is
the plaintext block xored with a constant; two sessions with the same commands, none of them STATUS, answer the same,
whatever the states they start from in UNINIT or FINALIZED, where INIT is accepted, with the same substitution layer. A
STATUS is left out because its answer shows ERR and LAST_ERR of before the session (R27). -/
def Obligations.NoNonceConsequences : Prop :=
  (∀ (k0 k1 : Word) (s t : State), s.phase = .uninit ∨ s.phase = .finalized → exec (.init k0 k1) s = .next t →
    let P := permute s.subst .long ⟨0, 0, 0, 0, 0⟩
    t.S.s0 = P.s0 ∧ t.S.s1 = P.s1 ∧ t.S.s2 = P.s2) ∧
  (∀ (k0 k1 p : Word) (s : State), s.phase = .uninit ∨ s.phase = .finalized →
    let c := p ^^^ (permute s.subst .long ⟨0, 0, 0, 0, 0⟩).s0
    (∃ t x y, runCommands [.init k0 k1, .adEnd 0 0, .enc p 0] s = some (t, [x, y, ⟨.ok, c, 0⟩])) ∧
    (s.subst = .default → c = p ^^^ 0x78ea7ae5cfebb108)) ∧
  (∀ (k0 k1 : Word) (is : List Instr) (s e : State),
    s.phase = .uninit ∨ s.phase = .finalized → e.phase = .uninit ∨ e.phase = .finalized → e.subst = s.subst →
    (∀ i ∈ is, readsNoStatus i) →
    ∃ t u rs, runCommands (.init k0 k1 :: is) s = some (t, rs) ∧ runCommands (.init k0 k1 :: is) e = some (u, rs))

/-- R107: in a session that reaches FINALIZED the domain-separation flip runs exactly once, after all its associated-data
blocks and before its message blocks: its accepted commands, STATUS left out, are some ADs, one AD_END, some ENCs or some
DECs, and one FINAL; and its final state is the absorption of the AD blocks, then bit 0 of `S[4]` flipped once, then the
message blocks, then finalization, none of which flips it. -/
def Obligations.DomainSeparationExactlyOnce : Prop :=
  ∀ (is : List Instr) (s t : State) (rs : List Response), s.phase = .initialized →
    runCommands is s = some (t, rs) → t.phase = .finalized →
    (∀ i ∈ acceptedOf is s, i.opcode ≠ 0x1 ∧ i.opcode ≠ 0x7) →
    ∃ (ads msgs : List Instr) (a f : Instr),
      (acceptedOf is s).filter (fun i => i.opcode != 0x0) = ads ++ [a] ++ msgs ++ [f] ∧
      (∀ i ∈ ads, i.opcode = 0x2) ∧ a.opcode = 0x3 ∧ f.opcode = 0x6 ∧
      let A := ads.foldl (fun S i => permute s.subst .short ⟨S.s0 ^^^ i.d0, S.s1, S.s2, S.s3, S.s4⟩) s.S
      let B : Sponge := ⟨A.s0, A.s1, A.s2, A.s3, A.s4 ^^^ 0x0000000000000001⟩
      ((∀ i ∈ msgs, i.opcode = 0x4) ∧
        t.S = sourceFinalize s.subst s.K (sourceEncrypt s.subst true (msgs.map Instr.d0) B).1) ∨
      ((∀ i ∈ msgs, i.opcode = 0x5) ∧
        t.S = sourceFinalize s.subst s.K (sourceDecrypt s.subst true (msgs.map Instr.d0) B).1)

/-- R108: without AD_END no session gets past INITIALIZED: ENC, DEC and FINAL are rejected there. -/
def Obligations.AbsorptionCannotBeSkipped : Prop :=
  ∀ (is : List Instr) (s : State), s.phase = .initialized → (∀ i ∈ is, i.opcode ≠ 0x3 ∧ i.opcode ≠ 0x7) →
    ∃ t rs, runCommands is s = some (t, rs) ∧ t.phase = .initialized ∧ rs.length = is.length ∧
      ∀ p ∈ is.zip rs, p.1.opcode = 0x4 ∨ p.1.opcode = 0x5 ∨ p.1.opcode = 0x6 → p.2 = ⟨.errPhase, 0, 0⟩

/-- R111: a session that has begun to encrypt encrypts until FINAL, one that has begun to decrypt decrypts until FINAL; the
other direction is rejected with ERR_PHASE. -/
def Obligations.DirectionIsFixed : Prop :=
  (∀ (d0 d1 : Word) (s t : State), exec (.enc d0 d1) s = .next t → t.rsp.status = .ok → t.phase = .encrypting) ∧
  (∀ (d0 d1 : Word) (s t : State), exec (.dec d0 d1) s = .next t → t.rsp.status = .ok → t.phase = .decrypting) ∧
  (∀ (is : List Instr) (s : State), s.phase = .encrypting ∨ s.phase = .decrypting →
    (∀ i ∈ is, i.opcode ≠ 0x6 ∧ i.opcode ≠ 0x7) →
    ∃ t rs, runCommands is s = some (t, rs) ∧ t.phase = s.phase ∧ rs.length = is.length ∧
      ∀ p ∈ is.zip rs,
        (p.1.opcode = 0x4 → p.2.status = if s.phase = .encrypting then .ok else .errPhase) ∧
        (p.1.opcode = 0x5 → p.2.status = if s.phase = .encrypting then .errPhase else .ok))

/-- R124: a session is opened by an accepted INIT (from UNINIT or FINALIZED); within it the phase never goes back and never
goes from encrypting to decrypting; only FINAL ends it in FINALIZED, and it returns the tag; CLEAR and reset end it with S
and K zeroed. -/
def Obligations.SessionLifeCycle : Prop :=
  (∀ (is : List Instr) (s t : State) (rs : List Response), (∀ i ∈ acceptedOf is s, i.opcode ≠ 0x1 ∧ i.opcode ≠ 0x7) →
    runCommands is s = some (t, rs) →
    s.phase.code ≤ t.phase.code ∧ ¬ (s.phase = .encrypting ∧ t.phase = .decrypting)) ∧
  (∀ (i : Instr) (s t : State), exec i s = .next t → i.opcode = 0x1 → t.rsp.status = .ok →
    (s.phase = .uninit ∨ s.phase = .finalized) ∧ t.phase = .initialized) ∧
  (∀ (i : Instr) (s t : State), exec i s = .next t → t.phase = .finalized → s.phase ≠ .finalized →
    i.opcode = 0x6 ∧ t.rsp = ⟨.ok, t.S.s3, t.S.s4⟩) ∧
  (∀ (i : Instr) (s t : State), exec i s = .next t → i.opcode = 0x7 →
    t.phase = .uninit ∧ t.S = ⟨0, 0, 0, 0, 0⟩ ∧ t.K = ⟨0, 0⟩) ∧
  (∀ s : State, (resetCore s).phase = .uninit ∧ (resetCore s).S = ⟨0, 0, 0, 0, 0⟩ ∧ (resetCore s).K = ⟨0, 0⟩)

/-- R172: the permutation call each command makes in each case, said of the next state `exec` answers: its state words are
the command's own update around `P12`, around `P6`, or around no permutation; so the rounds run are 12, 6 or 0. R120: a
session with n associated-data blocks and m message blocks, all accepted, makes exactly these permutation calls, in this
order: one long, n short, `max(m - 1, 0)` short, one long. -/
def Obligations.PermutationCallsOfASession : Prop :=
  (∀ (i : Instr) (s t : State), exec i s = .next t →
    (i.opcode = 0x1 ∨ i.opcode = 0x6 → legal i s.phase = true → madeCall i s t (some .long) ∧ roundsRun i s.phase = 12) ∧
    (i.opcode = 0x2 → legal i s.phase = true → madeCall i s t (some .short) ∧ roundsRun i s.phase = 6) ∧
    (i.opcode = 0x4 ∨ i.opcode = 0x5 → s.phase = .absorbedAd → madeCall i s t none ∧ roundsRun i s.phase = 0) ∧
    (i.opcode = 0x4 ∨ i.opcode = 0x5 → s.phase ≠ .absorbedAd → legal i s.phase = true →
      madeCall i s t (some .short) ∧ roundsRun i s.phase = 6) ∧
    (i.opcode = 0x0 ∨ i.opcode = 0x3 ∨ i.opcode = 0x7 → legal i s.phase = true →
      madeCall i s t none ∧ roundsRun i s.phase = 0) ∧
    (legal i s.phase = false → t.S = s.S ∧ roundsRun i s.phase = 0)) ∧
  (∀ (k0 k1 : Word) (ads ms : List Word) (dir : Word → Instr) (s : State),
    s.phase = .uninit ∨ s.phase = .finalized → (dir = (fun m => .enc m 0) ∨ dir = (fun m => .dec m 0)) →
    let session := [.init k0 k1] ++ ads.map (fun a => .ad a 0) ++ [.adEnd 0 0] ++ ms.map dir ++ [.final 0 0]
    let calls := [.long] ++ List.replicate ads.length .short ++ List.replicate (ms.length - 1) .short ++ [.long]
    runMakes session s calls ∧ callsOf session s = calls)

/-- R174, R50: a run from reset, or from any ready state, answers every command; it is over when the last response is taken,
and the core is then idle and ready, with no command in flight and `cmd_ready` = 1. The model's steps do just this run when
the host offers each command and takes each response (log entry 1): after all of them the state is the run's, and each
response is pending between the command and its take. -/
def Obligations.RunAnswersEveryCommand : Prop :=
  (∀ (is : List Instr) (s : State), s = State.reset ∨ Ready s →
    ∃ t rs, runCommands is s = some (t, rs) ∧ rs.length = is.length ∧ Ready t ∧ (outputs false t).cmdReady = true) ∧
  (∀ (is : List Instr) (rest : List HostInput) (s t : State) (rs : List Response), Ready s →
    runCommands is s = some (t, rs) →
    let start : State := { s with inputs := offered is ++ rest }
    core.run (2 * is.length) start = .next { t with inputs := rest } ∧
    ∀ k, k < is.length → ∃ u : State, core.run (2 * k + 1) start = .next u ∧ u.rspValid = true ∧ rs[k]? = some u.rsp)

/-- R131: a STATUS between two commands never changes their results: taken out of a run that goes on, it leaves every other
response as it was, and the final state too, but for the response registers, which mean nothing once the last response is
taken, and the model's counter of free values (log entries 8 and 11). -/
def Obligations.StatusIsTransparent : Prop :=
  ∀ (is js : List Instr) (j : Instr) (d0 d1 : Word) (s : State),
    ∃ t u rs qs r, rs.length = is.length ∧
      runCommands (is ++ j :: js) s = some (t, rs ++ qs) ∧
      runCommands (is ++ .status d0 d1 :: j :: js) s = some (u, rs ++ r :: qs) ∧ r.status = .ok ∧
      u = { t with rsp := u.rsp, fresh := u.fresh }

/-- R64: the source's operations as commands: each expansion is accepted where R121 allows it, leaves the state the source's
operation leaves, and its responses carry the operation's result. -/
def Obligations.SourceOperationsExpand : Prop :=
  (∀ (k0 k1 : Word) (s : State), s.phase = .uninit ∨ s.phase = .finalized →
    ∃ t, runCommands (expand (.initializeOp k0 k1)) s = some (t, [⟨.ok, 0, 0⟩]) ∧
      t.S = sourceInitialize s.subst ⟨k0, k1⟩ ∧ t.K = ⟨k0, k1⟩ ∧ t.phase = .initialized) ∧
  (∀ (ad : List Word) (s : State), s.phase = .initialized →
    ∃ t, runCommands (expand (.absorbAssociatedData ad)) s = some (t, List.replicate (ad.length + 1) ⟨.ok, 0, 0⟩) ∧
      t.S = sourceAbsorb s.subst ad s.S ∧ t.K = s.K ∧ t.phase = .absorbedAd) ∧
  (∀ (pt : List Word) (s : State), s.phase = .absorbedAd ∨ s.phase = .encrypting →
    let r := sourceEncrypt s.subst (decide (s.phase = .absorbedAd)) pt s.S
    ∃ t, runCommands (expand (.encryptBlocks pt)) s = some (t, r.2.map (fun c => ⟨.ok, c, 0⟩)) ∧
      t.S = r.1 ∧ t.K = s.K ∧ t.phase = if pt = [] then s.phase else .encrypting) ∧
  (∀ (ct : List Word) (s : State), s.phase = .absorbedAd ∨ s.phase = .decrypting →
    let r := sourceDecrypt s.subst (decide (s.phase = .absorbedAd)) ct s.S
    ∃ t, runCommands (expand (.decryptBlocks ct)) s = some (t, r.2.map (fun p => ⟨.ok, p, 0⟩)) ∧
      t.S = r.1 ∧ t.K = s.K ∧ t.phase = if ct = [] then s.phase else .decrypting) ∧
  (∀ (k0 k1 : Word) (s : State), s.phase = .absorbedAd ∨ s.phase = .encrypting ∨ s.phase = .decrypting →
    s.K = ⟨k0, k1⟩ →
    let T := sourceFinalize s.subst ⟨k0, k1⟩ s.S
    ∃ t, runCommands (expand (.finalize k0 k1)) s = some (t, [⟨.ok, T.s3, T.s4⟩]) ∧ t.S = T ∧ t.phase = .finalized)

/-! ### Reset, the command port and the step (20_memory.md, 70_reset_and_hazards.md) -/

/-- R35, R160: the values of every state element after reset, from whatever state, and the reset state itself; reset does
not touch the round-constant ROM, whose entries are `((15 - i) << 4) | i` (R26). -/
def Obligations.ResetValues : Prop :=
  (∀ (s : State), s = State.reset ∨ (∃ e, s = resetCore e) →
    s.S = ⟨0x0000000000000000, 0x0000000000000000, 0x0000000000000000, 0x0000000000000000, 0x0000000000000000⟩ ∧
    s.K = ⟨0x0000000000000000, 0x0000000000000000⟩ ∧ s.phase.code = 0 ∧ s.err = false ∧ s.lastErr.code = 0 ∧
    s.rspValid = false ∧ s.rsp.status.code = 0 ∧ s.rsp.r0 = 0 ∧ s.rsp.r1 = 0 ∧ s.busy = false ∧ s.rnd = 0 ∧
    s.rsel.select = 0) ∧
  (∀ i : Fin 16, rc i = (BitVec.ofNat 64 (15 - i.val) <<< 4) ||| BitVec.ofNat 64 i.val)

/-- R160, R162: an edge with `rst` = 1 puts every register at its reset value, also with a command in flight or a response
pending, and no response is produced; while `rst` = 1, `cmd_ready` and `rsp_valid` are 0; after that one edge the core is
idle in UNINIT with `cmd_ready` = 1. The model's own: the two fields R45 only implies are 0 (log entry 9), the core is no
longer lost (log entries 10 and 16), and the host's inputs and the substitution layer stay (log entry 16). -/
def Obligations.ResetEdgeAbandonsEverything : Prop :=
  ∀ (p : Pins) (s : State), p.rst = true →
    (outputs true s).cmdReady = false ∧ (outputs true s).rspValid = false ∧
    ∃ t, clockEdge p s = .next t ∧ t.toRegs = State.reset.toRegs ∧ t.lost = false ∧
      (outputs false t).cmdReady = true ∧ (outputs false t).rspValid = false ∧ (outputs false t).phaseO = 0 ∧
      t.inputs = s.inputs ∧ t.subst = s.subst

/-- R161: after reset the phase is UNINIT and ERR = 0, and exactly STATUS, INIT and CLEAR are accepted; the other session
commands are rejected with ERR_PHASE and the reserved opcodes with ERR_INVALID. -/
def Obligations.AcceptedAfterReset : Prop :=
  ∀ (i : Instr) (s : State), s = State.reset ∨ (∃ e, s = resetCore e) →
    s.phase = .uninit ∧ s.err = false ∧
    ∃ t, exec i s = .next t ∧
      (t.rsp.status = .ok ↔ i.opcode = 0x0 ∨ i.opcode = 0x1 ∨ i.opcode = 0x7) ∧
      (t.rsp.status = .errPhase ↔ 2 ≤ i.opcode.toNat ∧ i.opcode.toNat ≤ 6) ∧
      (t.rsp.status = .errInvalid ↔ 8 ≤ i.opcode.toNat)

/-- R45 (1), (2) and (3), R46: `cmd_ready` is 1 exactly when `rst` = 0, the engine is idle and no response is pending; an edge
samples a command exactly when it is offered and `cmd_ready` = 1; the sampled command is that of the pins, with LAT(op,
phase) edges to go, and nothing the host sees changes at that edge but `cmd_ready`. The model's own choice (log entry 8): the
response registers keep their free value at that edge, though R166 (b) gives them no meaning then. -/
def Obligations.CommandAcceptance : Prop :=
  (∀ (rst : Bool) (s : State), (outputs rst s).cmdReady = true ↔ rst = false ∧ s.busy = false ∧ s.rspValid = false) ∧
  (∀ (p : Pins) (s : State), p.cmdValid = true → (outputs p.rst s).cmdReady = true →
    ∃ t, clockEdge p s = .next t ∧ t.busy = true ∧
      decodeFrame t.held = instrOf p.cmdOp p.cmdD0 p.cmdD1 ∧ frameOp t.held = p.cmdOp ∧
      t.left = Config.lat p.cmdOp s.phase ∧ 1 ≤ t.left ∧
      outputs false t = { outputs false s with cmdReady := false } ∧ archOf t = archOf s ∧ t.rsp = s.rsp) ∧
  (∀ (p q : Pins) (s : State), q = { p with cmdOp := q.cmdOp, cmdD0 := q.cmdD0, cmdD1 := q.cmdD1 } →
    ¬ (p.cmdValid = true ∧ (outputs p.rst s).cmdReady = true) → clockEdge p s = clockEdge q s)

/-- R45 (3), R47: the clocked core does what the transaction-level command does, all at once, LAT(op, phase) edges after it
accepts the command, whatever the pins but `rst` are meanwhile. -/
def Obligations.ClockedCoreRefinesTransaction : Prop :=
  ∀ (p : Pins) (ps : List Pins) (s : State), Ready s → p.rst = false → p.cmdValid = true →
    (∀ q ∈ ps, q.rst = false) → ps.length = Config.lat p.cmdOp s.phase →
    ∃ t u, exec (instrOf p.cmdOp p.cmdD0 p.cmdD1) s = .next t ∧ clockEdges (p :: ps) s = .next u ∧
      u = { t with rnd := 0, held := u.held, left := u.left } ∧ u.rspValid = true

/-- R45 (3), R47, R90: before the response of a command is offered, nothing of its effect is visible: S, K, the phase, ERR
and LAST_ERR are as they were at the accepting edge, and no response is offered. That the registers S and K themselves are
unchanged, not only what the host sees of them, is the model's reading (log entry 7, DEDUCED). -/
def Obligations.NothingVisibleBeforeResponse : Prop :=
  ∀ (p : Pins) (ps : List Pins) (s : State), Ready s → p.rst = false → p.cmdValid = true →
    (∀ q ∈ ps, q.rst = false) → ps.length < Config.lat p.cmdOp s.phase →
    ∃ u, clockEdges (p :: ps) s = .next u ∧ archOf u = archOf s ∧
      (outputs false u).rspValid = false ∧ (outputs false u).cmdReady = false ∧ (outputs false u).phaseO = s.phase.code

/-- R45 (4), R166 (c): a pending response stays as it is, and no command is accepted, until an edge with `rsp_ready` = 1;
after that edge `rsp_valid` = 0 and the session is as it was. -/
def Obligations.ResponseStableUntilTaken : Prop :=
  (∀ (ps : List Pins) (s : State), s.busy = false → s.rspValid = true →
    (∀ q ∈ ps, q.rst = false ∧ q.rspReady = false) → clockEdges ps s = .next s) ∧
  (∀ (p : Pins) (s : State), s.busy = false → s.rspValid = true → p.rst = false → p.rspReady = true →
    ∃ t, clockEdge p s = .next t ∧ (outputs false t).rspValid = false ∧ (outputs false t).cmdReady = true ∧
      archOf t = archOf s)

/-- R171, R33: what the host sees of the handshake (`cmd_ready`, `rsp_valid`, `rsp_status` and `phase_o`) never depends on
`d0`, `d1`, S or K: two clocked runs that agree on the control pins and on the control part of the state agree on it after
any number of edges. That `rsp_status` agrees also while no response is pending rests on the model's choice of the free
value there (log entry 8). -/
def Obligations.TimingIndependentOfData : Prop :=
  ∀ (ps : List (Pins × Pins)) (s e : State),
    (∀ q ∈ ps, q.2 = { q.1 with cmdD0 := q.2.cmdD0, cmdD1 := q.2.cmdD1 }) →
    s.phase = e.phase → s.rspValid = e.rspValid → s.rsp.status = e.rsp.status → s.busy = e.busy → s.left = e.left →
    frameOp s.held = frameOp e.held → s.fresh = e.fresh →
    ∃ t u, clockEdges (ps.map Prod.fst) s = .next t ∧ clockEdges (ps.map Prod.snd) e = .next u ∧
      ∀ rst, (outputs rst t).cmdReady = (outputs rst u).cmdReady ∧ (outputs rst t).rspValid = (outputs rst u).rspValid ∧
        (outputs rst t).rspStatus = (outputs rst u).rspStatus ∧ (outputs rst t).phaseO = (outputs rst u).phaseO

/-- R156, R25: an idle core keeps all its state at edges with `cmd_valid` = 0 and `rst` = 0. The model's own (log entries 1
and 19): a step with no input of the host changes nothing, whatever the state. -/
def Obligations.IdleCoreKeepsItsState : Prop :=
  (∀ s : State, s.inputs = [] → step s = .next s) ∧
  (∀ (ps : List Pins) (s : State), Ready s → (∀ q ∈ ps, q.rst = false ∧ q.cmdValid = false) → clockEdges ps s = .next s)

/-- R156 (log entry 10, the model's reading of "a model must treat every state element as lost"): after a loss of power
every input but a reset is refused by name, a second loss of power leaves the core lost, and a reset, or an edge with `rst` =
1, brings the core back to the reset values. -/
def Obligations.PowerLossNeedsReset : Prop :=
  ∀ (s : State) (rest : List HostInput), s.inputs = .powerLoss :: rest →
    ∃ t, step s = .next t ∧ t.inputs = rest ∧ t.lost = true ∧
      (∀ f more, rest = .command f :: more → step t = .refused .stateLost) ∧
      (∀ more, rest = .take :: more → step t = .refused .stateLost) ∧
      (∀ more, rest = .powerLoss :: more → ∃ u, step t = .next u ∧ u.lost = true ∧ u.inputs = more) ∧
      (∀ p more, rest = .edge p :: more → p.rst = false → step t = .refused .stateLost) ∧
      (∀ p more, rest = .edge p :: more → p.rst = true →
        ∃ u, step t = .next u ∧ u.toRegs = State.reset.toRegs ∧ u.lost = false) ∧
      (∀ more, rest = .reset :: more → ∃ u, step t = .next u ∧ u.toRegs = State.reset.toRegs ∧ u.lost = false)

/-- R44, R46, R166 (a): a step whose input is a command offered to a ready core runs the decoded command; offered to a core
that is not ready, the command is not executed (log entry 3). -/
def Obligations.StepRunsDecodedCommand : Prop :=
  (∀ (f : Frame) (i : Instr) (rest : List HostInput) (s : State), s.inputs = .command f :: rest → Ready s →
    decodeFrame f = i → i.wf = true → step s = exec i { s with inputs := rest }) ∧
  (∀ (f : Frame) (rest : List HostInput) (s : State), s.inputs = .command f :: rest → s.lost = false →
    (s.busy = true ∨ s.rspValid = true) → step s = .next { s with inputs := rest })

/-- R45, R160: a step whose input is a clock edge is that edge; one whose input is a reset is the reset; one whose input is
a take ends a pending response, and changes nothing where none is pending or a command is in flight (log entry 1). -/
def Obligations.StepFollowsHostInput : Prop :=
  (∀ (p : Pins) (rest : List HostInput) (s : State), s.inputs = .edge p :: rest → s.lost = false →
    step s = clockEdge p { s with inputs := rest }) ∧
  (∀ (rest : List HostInput) (s : State), s.inputs = .reset :: rest →
    step s = .next (resetCore { s with inputs := rest })) ∧
  (∀ (rest : List HostInput) (s : State), s.inputs = .take :: rest → s.lost = false →
    (s.busy = true ∨ s.rspValid = false) → step s = .next { s with inputs := rest }) ∧
  (∀ (rest : List HostInput) (s : State), s.inputs = .take :: rest → s.lost = false → s.busy = false →
    s.rspValid = true → ∃ t, step s = .next t ∧ Ready t ∧ archOf t = archOf s ∧ t.inputs = rest)

/-- R8, R81 (log entry 4): no step changes which substitution layer the instance has. -/
def Obligations.SubstitutionLayerIsFixed : Prop :=
  ∀ s t : State, step s = .next t → t.subst = s.subst

/-- R29, R45, R46, R27, R143, R121: every step keeps the invariant of a defined state. -/
def Obligations.StepKeepsInvariant : Prop :=
  ∀ s t : State, Inv s → step s = .next t → Inv t

/-- R35, R160: the invariant holds at reset. -/
def Obligations.ResetMeetsInvariant : Prop :=
  Inv State.reset
end

