-- ==== Sys2Proof/Laws/Assembler.lean ====
section
/-! SUPPORT. What each part of the line reader does (30_encoding.md R63): blanks, commas, literals. -/

namespace Sys2Proof.Machine

/-- Blanks at the front are dropped. -/
theorem dropBlanks_append {b : List Char} (h : ∀ c ∈ b, isBlank c = true) (cs : List Char) :
    (b ++ cs).dropWhile isBlank = cs.dropWhile isBlank := by
  induction b with
  | nil => rfl
  | cons c b ih =>
    rw [List.cons_append, List.dropWhile_cons_of_pos (h c (by simp))]
    exact ih fun d hd => h d (by simp [hd])

/-- What comes after a text that is not all blank stays when the blanks in front are dropped. -/
theorem dropBlanks_keeps {cs : List Char} (h : cs.dropWhile isBlank ≠ []) (ds : List Char) :
    (cs ++ ds).dropWhile isBlank = cs.dropWhile isBlank ++ ds := by
  induction cs with
  | nil => exact absurd rfl h
  | cons c cs ih =>
    rw [List.cons_append]
    by_cases hc : isBlank c = true
    · rw [List.dropWhile_cons_of_pos hc] at h ⊢
      rw [List.dropWhile_cons_of_pos hc]
      exact ih h
    · rw [List.dropWhile_cons_of_neg hc, List.dropWhile_cons_of_neg hc]
      rfl

/-- A text is all blank exactly when dropping blanks leaves nothing. -/
theorem dropBlanks_eq_nil {cs : List Char} : cs.dropWhile isBlank = [] ↔ ∀ c ∈ cs, isBlank c = true := by
  simp [List.dropWhile_eq_nil_iff]

/-- Blanks at either end do not count. -/
theorem trim_pad {b b' : List Char} (hb : ∀ c ∈ b, isBlank c = true) (hb' : ∀ c ∈ b', isBlank c = true)
    (cs : List Char) : trim (b ++ cs ++ b') = trim cs := by
  unfold trim
  rw [List.append_assoc, dropBlanks_append hb]
  by_cases h : cs.dropWhile isBlank = []
  · rw [h, dropBlanks_append (dropBlanks_eq_nil.1 h), dropBlanks_eq_nil.2 hb']
  · rw [dropBlanks_keeps h, List.reverse_append, dropBlanks_append (by simpa using hb')]

/-- A text that neither begins nor ends with a blank is as it is. -/
theorem trim_eq_self {cs : List Char} (h : ∀ c ∈ cs.head?, isBlank c = false) (h' : ∀ c ∈ cs.getLast?, isBlank c = false) :
    trim cs = cs := by
  have front {ds : List Char} (h : ∀ c ∈ ds.head?, isBlank c = false) : ds.dropWhile isBlank = ds := by
    cases ds with
    | nil => rfl
    | cons d ds => exact List.dropWhile_cons_of_neg (by simp [h d rfl])
  rw [trim, front h, front (by simpa using h'), List.reverse_reverse]

/-- A text with no blank in it is as it is. -/
theorem trim_of_noBlank {cs : List Char} (h : ∀ c ∈ cs, isBlank c = false) : trim cs = cs :=
  trim_eq_self (fun c hc => h c (List.mem_of_mem_head? hc)) fun c hc => h c (List.mem_of_mem_getLast? hc)

/-- R63: one part without a comma. -/
theorem splitCommas_of_noComma {cs : List Char} (h : ',' ∉ cs) : splitCommas cs = [cs] := by
  induction cs with
  | nil => rfl
  | cons c cs ih =>
    have hc : (c == ',') = false := by simpa using fun e : c = ',' => h (by simp [e])
    simp [splitCommas, hc, ih fun hm => h (by simp [hm])]

/-- R63: the part before a comma is the first operand. -/
theorem splitCommas_append {cs : List Char} (h : ',' ∉ cs) (ds : List Char) :
    splitCommas (cs ++ ',' :: ds) = cs :: splitCommas ds := by
  induction cs with
  | nil => rfl
  | cons c cs ih =>
    have hc : (c == ',') = false := by simpa using fun e : c = ',' => h (by simp [e])
    simp [splitCommas, hc, ih fun hm => h (by simp [hm])]

/-- R63: the operands of a line that is operands with commas between. -/
theorem splitCommas_intercalate {parts : List (List Char)} (h : ∀ p ∈ parts, ',' ∉ p) (hne : parts ≠ []) :
    splitCommas ([','].intercalate parts) = parts := by
  induction parts with
  | nil => exact absurd rfl hne
  | cons p ps ih =>
    cases ps with
    | nil => simpa using splitCommas_of_noComma (h p (by simp))
    | cons q qs =>
      rw [List.intercalate_cons_cons, List.append_assoc, List.singleton_append, splitCommas_append (h p (by simp)),
        ih (fun r hr => h r (by simp [hr])) (by simp)]

/-- A text is its blanks at the front, what trimming leaves, and its blanks at the end. -/
theorem trim_split (cs : List Char) : ∃ b b' : List Char, cs = b ++ trim cs ++ b' ∧ (∀ c ∈ b, isBlank c = true) ∧
    ∀ c ∈ b', isBlank c = true := by
  refine ⟨cs.takeWhile isBlank, ((cs.dropWhile isBlank).reverse.takeWhile isBlank).reverse, ?_,
    fun c hc => List.mem_takeWhile_imp hc, fun c hc => List.mem_takeWhile_imp (List.mem_reverse.1 hc)⟩
  rw [trim, List.append_assoc, ← List.reverse_append, List.takeWhile_append_dropWhile, List.reverse_reverse,
    List.takeWhile_append_dropWhile]

/-- A text without a comma at the end of another goes to its last part. -/
theorem splitCommas_back {b : List Char} (h : ',' ∉ b) (cs : List Char) :
    ∃ init last, splitCommas cs = init ++ [last] ∧ splitCommas (cs ++ b) = init ++ [last ++ b] := by
  induction cs with
  | nil => exact ⟨[], [], rfl, by simpa using splitCommas_of_noComma h⟩
  | cons c cs ih =>
    obtain ⟨init, last, h1, h2⟩ := ih
    cases hc : c == ',' with
    | true => exact ⟨[] :: init, last, by simp [splitCommas, hc, h1], by simp [splitCommas, hc, h2]⟩
    | false =>
      cases init with
      | nil => exact ⟨[], c :: last, by simp [splitCommas, hc, h1], by simp [splitCommas, hc, h2]⟩
      | cons p ps => exact ⟨(c :: p) :: ps, last, by simp [splitCommas, hc, h1], by simp [splitCommas, hc, h2]⟩

/-- A text without a comma in front of another goes to its first part. -/
theorem splitCommas_front {b : List Char} (h : ',' ∉ b) (cs : List Char) :
    ∃ first tail, splitCommas cs = first :: tail ∧ splitCommas (b ++ cs) = (b ++ first) :: tail := by
  induction b with
  | nil =>
    obtain ⟨init, last, h1, -⟩ := splitCommas_back (b := []) (by simp) cs
    cases init with
    | nil => exact ⟨last, [], h1, h1⟩
    | cons p ps => exact ⟨p, ps ++ [last], h1, h1⟩
  | cons c b ih =>
    obtain ⟨first, tail, h1, h2⟩ := ih fun hm => h (by simp [hm])
    have hc : (c == ',') = false := by simpa using fun e : c = ',' => h (by simp [e])
    exact ⟨first, tail, h1, by simp [splitCommas, hc, h2]⟩

/-- R63: the operands of a line do not depend on the blanks around them all. -/
theorem splitCommas_trim (cs : List Char) : (splitCommas (trim cs)).map trim = (splitCommas cs).map trim := by
  obtain ⟨b, b', he, hb, hb'⟩ := trim_split cs
  have noComma {b : List Char} (h : ∀ c ∈ b, isBlank c = true) : ',' ∉ b := fun hm => absurd (h _ hm) (by decide)
  obtain ⟨init, last, h1, h2⟩ := splitCommas_back (noComma hb') (trim cs)
  obtain ⟨first, tail, h3, h4⟩ := splitCommas_front (noComma hb) (trim cs ++ b')
  have hlast : trim (last ++ b') = trim last := by simpa using trim_pad (b := []) (by simp) hb' last
  have hfirst : trim (b ++ first) = trim first := by simpa using trim_pad (b' := []) hb (by simp) first
  conv_rhs => rw [he, List.append_assoc, h4, List.map_cons, hfirst, ← List.map_cons, ← h3, h2]
  simp [h1, hlast]

/-- A text with a character that is no blank is not trimmed away. -/
theorem trim_ne_nil {cs : List Char} {c : Char} (hc : c ∈ cs) (h : isBlank c = false) : trim cs ≠ [] := by
  obtain ⟨b, b', he, hb, hb'⟩ := trim_split cs
  intro hn
  rw [hn, List.append_nil] at he
  rw [he] at hc
  have : isBlank c = true := (List.mem_append.1 hc).elim (hb c) (hb' c)
  simp [h] at this

/-- R63: a literal is `0x` and at least one hexadecimal digit. -/
theorem literal_eq_some {cs : List Char} {n : Nat} :
    literal cs = some n ↔ ∃ ds, cs = '0' :: 'x' :: ds ∧ ds ≠ [] ∧ hexDigits 0 ds = some n := by
  constructor
  · intro h
    unfold literal at h
    split at h
    · exact ⟨_, rfl, by simp, h⟩
    · simp at h
  · rintro ⟨ds, rfl, hne, h⟩
    cases ds with
    | nil => exact absurd rfl hne
    | cons d ds => exact h

/-- R63: a text of digits is read from the first on. -/
theorem hexDigits_eq_foldl {digit : Char → Nat} {ds : List Char} (h : ∀ c ∈ ds, hexDigit c = some (digit c)) (acc : Nat) :
    hexDigits acc ds = some (ds.foldl (fun n c => 16 * n + digit c) acc) := by
  induction ds generalizing acc with
  | nil => rfl
  | cons d ds ih => simp [hexDigits, h d (by simp), ih fun c hc => h c (by simp [hc])]

/-- R63: a text with a character that is no digit is no number. -/
theorem hexDigits_isSome {ds : List Char} {acc : Nat} (h : (hexDigits acc ds).isSome = true) :
    ∀ c ∈ ds, (hexDigit c).isSome = true := by
  induction ds generalizing acc with
  | nil => simp
  | cons d ds ih =>
    unfold hexDigits at h
    split at h
    · simpa [*] using ih h
    · simp at h

/-- R63: all operands are read, or none. -/
theorem literals_eq_some {parts : List (List Char)} {ns : List Nat} (h : parts.map literal = ns.map some) :
    literals parts = some ns := by
  induction parts generalizing ns with
  | nil => simpa [literals] using h
  | cons p ps ih =>
    cases ns with
    | nil => simp at h
    | cons n ns =>
      obtain ⟨hp, hps⟩ := by simpa using h
      simp [literals, hp, ih hps]

theorem literals_eq_none {parts : List (List Char)} (h : ∃ p ∈ parts, literal p = none) : literals parts = none := by
  induction parts with
  | nil => simp at h
  | cons p ps ih =>
    unfold literals
    split
    · rename_i hp hps
      obtain ⟨q, hq, hn⟩ := h
      rcases List.mem_cons.1 hq with rfl | hq
      · simp [hp] at hn
      · simp [ih ⟨q, hq, hn⟩] at hps
    · rfl

/-- R63: what a line reads as, once its code is a mnemonic and the text after it. -/
theorem parseLine_of_code {line mnemonic rest : List Char}
    (hcode : trim (line.takeWhile (fun c => !(c == ';'))) = mnemonic ++ rest) (hm : ∀ c ∈ mnemonic, isBlank c = false)
    (hne : mnemonic ≠ []) (hr : ∀ c ∈ rest.head?, isBlank c = true) :
    parseLine line =
      match asmForms.find? (fun form => form.1 == mnemonic) with
      | none => .error .unknownMnemonic
      | some form =>
        match (if (trim rest).isEmpty then some [] else literals ((splitCommas (trim rest)).map trim)) with
        | none => .error .badLiteral
        | some ns =>
          match form.2 ns with
          | none => .error .operandCount
          | some a => .ok (some a) := by
  have htake : (mnemonic ++ rest).takeWhile (fun c => !isBlank c) = mnemonic := by
    rw [List.takeWhile_append_of_pos (by simpa using hm)]
    cases rest with
    | nil => simp
    | cons c rest => simp [hr c rfl]
  have hne' : (mnemonic ++ rest).isEmpty = false := by cases mnemonic <;> simp_all
  have h := parseLine.eq_1 line
  simp only [hcode, hne', htake, List.drop_left, Bool.false_eq_true, if_false] at h
  exact h

end Sys2Proof.Machine
end

