-- ==== Sys2Proof/Laws/PerInstr.lean ====
section
/-! SUPPORT. One lemma per command: its frame carries its opcode in bits 131:128, and it is well formed. -/

namespace Sys2Proof.Laws.OpcodeField

/-- R55, R58: the opcode field of a command's frame is its opcode, whatever its operands, and the command is well formed. -/
def Statement (i : Instr) : Prop := (encode i).extractLsb' 128 4 = i.opcode ∧ i.wf = true

/-- R55: the opcode field of a frame made of fields. -/
theorem field_frameOf (op : BitVec 4) (d1 d0 : Word) : (frameOf op d1 d0).extractLsb' 128 4 = op := by
  apply BitVec.eq_of_getLsbD_eq
  intro k hk
  simp [frameOf, hk]
  grind

theorem status (d0 d1 : Word) : Statement (.status d0 d1) := ⟨field_frameOf _ d1 d0, rfl⟩
theorem init (d0 d1 : Word) : Statement (.init d0 d1) := ⟨field_frameOf _ d1 d0, rfl⟩
theorem ad (d0 d1 : Word) : Statement (.ad d0 d1) := ⟨field_frameOf _ d1 d0, rfl⟩
theorem adEnd (d0 d1 : Word) : Statement (.adEnd d0 d1) := ⟨field_frameOf _ d1 d0, rfl⟩
theorem enc (d0 d1 : Word) : Statement (.enc d0 d1) := ⟨field_frameOf _ d1 d0, rfl⟩
theorem dec (d0 d1 : Word) : Statement (.dec d0 d1) := ⟨field_frameOf _ d1 d0, rfl⟩
theorem final (d0 d1 : Word) : Statement (.final d0 d1) := ⟨field_frameOf _ d1 d0, rfl⟩
theorem clear (d0 d1 : Word) : Statement (.clear d0 d1) := ⟨field_frameOf _ d1 d0, rfl⟩
theorem cmd8 (d0 d1 : Word) : Statement (.cmd8 d0 d1) := ⟨field_frameOf _ d1 d0, rfl⟩
theorem cmd9 (d0 d1 : Word) : Statement (.cmd9 d0 d1) := ⟨field_frameOf _ d1 d0, rfl⟩
theorem cmdA (d0 d1 : Word) : Statement (.cmdA d0 d1) := ⟨field_frameOf _ d1 d0, rfl⟩
theorem cmdB (d0 d1 : Word) : Statement (.cmdB d0 d1) := ⟨field_frameOf _ d1 d0, rfl⟩
theorem cmdC (d0 d1 : Word) : Statement (.cmdC d0 d1) := ⟨field_frameOf _ d1 d0, rfl⟩
theorem cmdD (d0 d1 : Word) : Statement (.cmdD d0 d1) := ⟨field_frameOf _ d1 d0, rfl⟩
theorem cmdE (d0 d1 : Word) : Statement (.cmdE d0 d1) := ⟨field_frameOf _ d1 d0, rfl⟩
theorem cmdF (d0 d1 : Word) : Statement (.cmdF d0 d1) := ⟨field_frameOf _ d1 d0, rfl⟩

end Sys2Proof.Laws.OpcodeField
end

