-- ==== Sys2Proof/Laws/Encoding.lean ====
section
/-! SUPPORT. The bits and the fields of a command frame. -/

namespace Sys2Proof.Laws

/-- R55: bit `k` of a frame. -/
theorem frameOf_getLsbD (op : BitVec 4) (d1 d0 : Word) (k : Nat) :
    (frameOf op d1 d0).getLsbD k =
      if k < 64 then d0.getLsbD k else if k < 128 then d1.getLsbD (k - 64) else op.getLsbD (k - 128) := by
  change BitVec.getLsbD (w := 4 + 64 + 64) (op ++ d1 ++ d0) k = _
  rw [BitVec.getLsbD_append, BitVec.getLsbD_append]
  grind

@[simp] theorem frameOp_frameOf (op : BitVec 4) (d1 d0 : Word) : frameOp (frameOf op d1 d0) = op :=
  OpcodeField.field_frameOf op d1 d0

@[simp] theorem frameD0_frameOf (op : BitVec 4) (d1 d0 : Word) : frameD0 (frameOf op d1 d0) = d0 := by
  apply BitVec.eq_of_getLsbD_eq
  intro k hk
  simp [frameD0, hk, frameOf_getLsbD]

@[simp] theorem frameD1_frameOf (op : BitVec 4) (d1 d0 : Word) : frameD1 (frameOf op d1 d0) = d1 := by
  apply BitVec.eq_of_getLsbD_eq
  intro k hk
  simp [frameD1, hk, frameOf_getLsbD]
  omega

/-- R55: a frame is made of its three fields. -/
theorem frameOf_fields (f : Frame) : frameOf (frameOp f) (frameD1 f) (frameD0 f) = f := by
  apply BitVec.eq_of_getLsbD_eq
  intro k hk
  simp [frameOf_getLsbD, frameOp, frameD1, frameD0]
  grind

/-- R57: a frame made of fields decodes by its opcode alone, its operands unchanged. -/
theorem decodeFrame_frameOf (op : BitVec 4) (d1 d0 : Word) : decodeFrame (frameOf op d1 d0) = instrOf op d0 d1 := by
  simp [decodeFrame]

/-- A fact about every opcode holds if it holds of the 16 values. -/
theorem forall_opcode {P : BitVec 4 → Prop} (h : ∀ k : Fin 16, P (BitVec.ofFin k)) (op : BitVec 4) : P op := h op.toFin

/-- R56: the command an opcode selects has that opcode and the operands given. -/
theorem instrOf_fields (op : BitVec 4) (d0 d1 : Word) :
    (instrOf op d0 d1).opcode = op ∧ (instrOf op d0 d1).d0 = d0 ∧ (instrOf op d0 d1).d1 = d1 := by
  revert op
  refine forall_opcode fun k => ?_
  fin_cases k <;> exact ⟨rfl, rfl, rfl⟩

theorem instrOf_opcode (i : Instr) : instrOf i.opcode i.d0 i.d1 = i := by
  cases i <;> rfl

end Sys2Proof.Laws
end

