-- ==== Sys2Proof/Laws/State.lean ====
section
/-! SUPPORT. One lemma per field of the state for each shared update of it, and the same for the permutation state. -/

namespace Sys2Proof.Machine

variable (s : State)

@[simp] theorem respond_S (c : Status) (a b : Word) : (respond c a b s).S = s.S := rfl
@[simp] theorem respond_K (c : Status) (a b : Word) : (respond c a b s).K = s.K := rfl
@[simp] theorem respond_phase (c : Status) (a b : Word) : (respond c a b s).phase = s.phase := rfl
@[simp] theorem respond_err (c : Status) (a b : Word) : (respond c a b s).err = s.err := rfl
@[simp] theorem respond_lastErr (c : Status) (a b : Word) : (respond c a b s).lastErr = s.lastErr := rfl
@[simp] theorem respond_rspValid (c : Status) (a b : Word) : (respond c a b s).rspValid = true := rfl
@[simp] theorem respond_rsp (c : Status) (a b : Word) : (respond c a b s).rsp = ⟨c, a, b⟩ := rfl
@[simp] theorem respond_busy (c : Status) (a b : Word) : (respond c a b s).busy = s.busy := rfl
@[simp] theorem respond_rnd (c : Status) (a b : Word) : (respond c a b s).rnd = s.rnd := rfl
@[simp] theorem respond_rsel (c : Status) (a b : Word) : (respond c a b s).rsel = s.rsel := rfl
@[simp] theorem respond_held (c : Status) (a b : Word) : (respond c a b s).held = s.held := rfl
@[simp] theorem respond_left (c : Status) (a b : Word) : (respond c a b s).left = s.left := rfl
@[simp] theorem respond_inputs (c : Status) (a b : Word) : (respond c a b s).inputs = s.inputs := rfl
@[simp] theorem respond_subst (c : Status) (a b : Word) : (respond c a b s).subst = s.subst := rfl
@[simp] theorem respond_fresh (c : Status) (a b : Word) : (respond c a b s).fresh = s.fresh := rfl
@[simp] theorem respond_lost (c : Status) (a b : Word) : (respond c a b s).lost = s.lost := rfl

@[simp] theorem reject_S (c : Status) : (reject c s).S = s.S := rfl
@[simp] theorem reject_K (c : Status) : (reject c s).K = s.K := rfl
@[simp] theorem reject_phase (c : Status) : (reject c s).phase = s.phase := rfl
@[simp] theorem reject_err (c : Status) : (reject c s).err = true := rfl
@[simp] theorem reject_lastErr (c : Status) : (reject c s).lastErr = c := rfl
@[simp] theorem reject_rspValid (c : Status) : (reject c s).rspValid = true := rfl
@[simp] theorem reject_rsp (c : Status) : (reject c s).rsp = ⟨c, 0, 0⟩ := rfl
@[simp] theorem reject_busy (c : Status) : (reject c s).busy = s.busy := rfl
@[simp] theorem reject_rnd (c : Status) : (reject c s).rnd = s.rnd := rfl
@[simp] theorem reject_rsel (c : Status) : (reject c s).rsel = s.rsel := rfl
@[simp] theorem reject_held (c : Status) : (reject c s).held = s.held := rfl
@[simp] theorem reject_left (c : Status) : (reject c s).left = s.left := rfl
@[simp] theorem reject_inputs (c : Status) : (reject c s).inputs = s.inputs := rfl
@[simp] theorem reject_subst (c : Status) : (reject c s).subst = s.subst := rfl
@[simp] theorem reject_fresh (c : Status) : (reject c s).fresh = s.fresh := rfl
@[simp] theorem reject_lost (c : Status) : (reject c s).lost = s.lost := rfl

@[simp] theorem permuteS_S (r : Rounds) : (permuteS r s).S = permute s.subst r s.S := rfl
@[simp] theorem permuteS_K (r : Rounds) : (permuteS r s).K = s.K := rfl
@[simp] theorem permuteS_phase (r : Rounds) : (permuteS r s).phase = s.phase := rfl
@[simp] theorem permuteS_err (r : Rounds) : (permuteS r s).err = s.err := rfl
@[simp] theorem permuteS_lastErr (r : Rounds) : (permuteS r s).lastErr = s.lastErr := rfl
@[simp] theorem permuteS_rspValid (r : Rounds) : (permuteS r s).rspValid = s.rspValid := rfl
@[simp] theorem permuteS_rsp (r : Rounds) : (permuteS r s).rsp = s.rsp := rfl
@[simp] theorem permuteS_busy (r : Rounds) : (permuteS r s).busy = s.busy := rfl
@[simp] theorem permuteS_rnd (r : Rounds) : (permuteS r s).rnd = s.rnd := rfl
@[simp] theorem permuteS_rsel (r : Rounds) : (permuteS r s).rsel = r := rfl
@[simp] theorem permuteS_held (r : Rounds) : (permuteS r s).held = s.held := rfl
@[simp] theorem permuteS_left (r : Rounds) : (permuteS r s).left = s.left := rfl
@[simp] theorem permuteS_inputs (r : Rounds) : (permuteS r s).inputs = s.inputs := rfl
@[simp] theorem permuteS_subst (r : Rounds) : (permuteS r s).subst = s.subst := rfl
@[simp] theorem permuteS_fresh (r : Rounds) : (permuteS r s).fresh = s.fresh := rfl
@[simp] theorem permuteS_lost (r : Rounds) : (permuteS r s).lost = s.lost := rfl

@[simp] theorem clearSession_S : (clearSession s).S = .zero := rfl
@[simp] theorem clearSession_K : (clearSession s).K = .zero := rfl
@[simp] theorem clearSession_phase : (clearSession s).phase = .uninit := rfl
@[simp] theorem clearSession_err : (clearSession s).err = false := rfl
@[simp] theorem clearSession_lastErr : (clearSession s).lastErr = .ok := rfl
@[simp] theorem clearSession_rspValid : (clearSession s).rspValid = s.rspValid := rfl
@[simp] theorem clearSession_rsp : (clearSession s).rsp = s.rsp := rfl
@[simp] theorem clearSession_busy : (clearSession s).busy = s.busy := rfl
@[simp] theorem clearSession_rnd : (clearSession s).rnd = s.rnd := rfl
@[simp] theorem clearSession_rsel : (clearSession s).rsel = s.rsel := rfl
@[simp] theorem clearSession_held : (clearSession s).held = s.held := rfl
@[simp] theorem clearSession_left : (clearSession s).left = s.left := rfl
@[simp] theorem clearSession_inputs : (clearSession s).inputs = s.inputs := rfl
@[simp] theorem clearSession_subst : (clearSession s).subst = s.subst := rfl
@[simp] theorem clearSession_fresh : (clearSession s).fresh = s.fresh := rfl
@[simp] theorem clearSession_lost : (clearSession s).lost = s.lost := rfl

@[simp] theorem idleEngine_S : (idleEngine s).S = s.S := rfl
@[simp] theorem idleEngine_K : (idleEngine s).K = s.K := rfl
@[simp] theorem idleEngine_phase : (idleEngine s).phase = s.phase := rfl
@[simp] theorem idleEngine_err : (idleEngine s).err = s.err := rfl
@[simp] theorem idleEngine_lastErr : (idleEngine s).lastErr = s.lastErr := rfl
@[simp] theorem idleEngine_rspValid : (idleEngine s).rspValid = s.rspValid := rfl
@[simp] theorem idleEngine_rsp : (idleEngine s).rsp = s.rsp := rfl
@[simp] theorem idleEngine_busy : (idleEngine s).busy = false := rfl
@[simp] theorem idleEngine_rnd : (idleEngine s).rnd = 0 := rfl
@[simp] theorem idleEngine_rsel : (idleEngine s).rsel = s.rsel := rfl
@[simp] theorem idleEngine_held : (idleEngine s).held = s.held := rfl
@[simp] theorem idleEngine_left : (idleEngine s).left = 0 := rfl
@[simp] theorem idleEngine_inputs : (idleEngine s).inputs = s.inputs := rfl
@[simp] theorem idleEngine_subst : (idleEngine s).subst = s.subst := rfl
@[simp] theorem idleEngine_fresh : (idleEngine s).fresh = s.fresh := rfl
@[simp] theorem idleEngine_lost : (idleEngine s).lost = s.lost := rfl

@[simp] theorem takeResponse_S : (takeResponse s).S = s.S := rfl
@[simp] theorem takeResponse_K : (takeResponse s).K = s.K := rfl
@[simp] theorem takeResponse_phase : (takeResponse s).phase = s.phase := rfl
@[simp] theorem takeResponse_err : (takeResponse s).err = s.err := rfl
@[simp] theorem takeResponse_lastErr : (takeResponse s).lastErr = s.lastErr := rfl
@[simp] theorem takeResponse_rspValid : (takeResponse s).rspValid = false := rfl
@[simp] theorem takeResponse_rsp : (takeResponse s).rsp = Config.idleRsp s.fresh := rfl
@[simp] theorem takeResponse_busy : (takeResponse s).busy = s.busy := rfl
@[simp] theorem takeResponse_rnd : (takeResponse s).rnd = s.rnd := rfl
@[simp] theorem takeResponse_rsel : (takeResponse s).rsel = s.rsel := rfl
@[simp] theorem takeResponse_held : (takeResponse s).held = s.held := rfl
@[simp] theorem takeResponse_left : (takeResponse s).left = s.left := rfl
@[simp] theorem takeResponse_inputs : (takeResponse s).inputs = s.inputs := rfl
@[simp] theorem takeResponse_subst : (takeResponse s).subst = s.subst := rfl
@[simp] theorem takeResponse_fresh : (takeResponse s).fresh = s.fresh + 1 := rfl
@[simp] theorem takeResponse_lost : (takeResponse s).lost = s.lost := rfl

@[simp] theorem resetCore_toRegs : (resetCore s).toRegs = Regs.reset := rfl
@[simp] theorem resetCore_inputs : (resetCore s).inputs = s.inputs := rfl
@[simp] theorem resetCore_subst : (resetCore s).subst = s.subst := rfl
@[simp] theorem resetCore_fresh : (resetCore s).fresh = s.fresh := rfl
@[simp] theorem resetCore_lost : (resetCore s).lost = false := rfl
@[simp] theorem losePower_toRegs : (losePower s).toRegs = Config.lostRegs s.fresh := rfl
@[simp] theorem losePower_inputs : (losePower s).inputs = s.inputs := rfl
@[simp] theorem losePower_subst : (losePower s).subst = s.subst := rfl
@[simp] theorem losePower_fresh : (losePower s).fresh = s.fresh + 1 := rfl
@[simp] theorem losePower_lost : (losePower s).lost = true := rfl

variable (S : Sponge)

@[simp] theorem Sponge.xorRate_s0 (a : Word) : (S.xorRate a).s0 = S.s0 ^^^ a := rfl
@[simp] theorem Sponge.xorRate_s1 (a : Word) : (S.xorRate a).s1 = S.s1 := rfl
@[simp] theorem Sponge.xorRate_s2 (a : Word) : (S.xorRate a).s2 = S.s2 := rfl
@[simp] theorem Sponge.xorRate_s3 (a : Word) : (S.xorRate a).s3 = S.s3 := rfl
@[simp] theorem Sponge.xorRate_s4 (a : Word) : (S.xorRate a).s4 = S.s4 := rfl

@[simp] theorem Sponge.setRate_s0 (c : Word) : (S.setRate c).s0 = c := rfl
@[simp] theorem Sponge.setRate_s1 (c : Word) : (S.setRate c).s1 = S.s1 := rfl
@[simp] theorem Sponge.setRate_s2 (c : Word) : (S.setRate c).s2 = S.s2 := rfl
@[simp] theorem Sponge.setRate_s3 (c : Word) : (S.setRate c).s3 = S.s3 := rfl
@[simp] theorem Sponge.setRate_s4 (c : Word) : (S.setRate c).s4 = S.s4 := rfl

@[simp] theorem Sponge.flipDomain_s0 : (S.flipDomain).s0 = S.s0 := rfl
@[simp] theorem Sponge.flipDomain_s1 : (S.flipDomain).s1 = S.s1 := rfl
@[simp] theorem Sponge.flipDomain_s2 : (S.flipDomain).s2 = S.s2 := rfl
@[simp] theorem Sponge.flipDomain_s3 : (S.flipDomain).s3 = S.s3 := rfl
@[simp] theorem Sponge.flipDomain_s4 : (S.flipDomain).s4 = S.s4 ^^^ 1 := rfl

@[simp] theorem Sponge.xorTail_s0 (k : Key) : (S.xorTail k).s0 = S.s0 := rfl
@[simp] theorem Sponge.xorTail_s1 (k : Key) : (S.xorTail k).s1 = S.s1 := rfl
@[simp] theorem Sponge.xorTail_s2 (k : Key) : (S.xorTail k).s2 = S.s2 := rfl
@[simp] theorem Sponge.xorTail_s3 (k : Key) : (S.xorTail k).s3 = S.s3 ^^^ k.k0 := rfl
@[simp] theorem Sponge.xorTail_s4 (k : Key) : (S.xorTail k).s4 = S.s4 ^^^ k.k1 := rfl

@[simp] theorem Sponge.xorMid_s0 (k : Key) : (S.xorMid k).s0 = S.s0 := rfl
@[simp] theorem Sponge.xorMid_s1 (k : Key) : (S.xorMid k).s1 = S.s1 ^^^ k.k0 := rfl
@[simp] theorem Sponge.xorMid_s2 (k : Key) : (S.xorMid k).s2 = S.s2 ^^^ k.k1 := rfl
@[simp] theorem Sponge.xorMid_s3 (k : Key) : (S.xorMid k).s3 = S.s3 := rfl
@[simp] theorem Sponge.xorMid_s4 (k : Key) : (S.xorMid k).s4 = S.s4 := rfl

end Sys2Proof.Machine
end

