-- ==== Sys2Proof/Laws/Ops.lean ====
section
/-! SUPPORT. For each shared operation, once, everything it can do; what `exec` comes to for each command; and what one
clock edge and one host input can be. -/

namespace Sys2Proof.Machine

/-- R123: the guard runs the body in a legal phase and rejects in every other. -/
theorem ifLegal_of_legal {i : Instr} {body : State → State} {s : State} (h : legal i s.phase = true) :
    ifLegal i body s = .next (body s) := by
  simp [ifLegal, h]

theorem ifLegal_of_illegal {i : Instr} {body : State → State} {s : State} (h : legal i s.phase = false) :
    ifLegal i body s = .next (reject .errPhase s) := by
  simp [ifLegal, h]

/-- What the guard can answer. -/
theorem ifLegal_next {i : Instr} {body : State → State} {s t : State} (h : ifLegal i body s = .next t) :
    (legal i s.phase = true ∧ t = body s) ∨ (legal i s.phase = false ∧ t = reject .errPhase s) := by
  cases hl : legal i s.phase with
  | true => exact .inl ⟨rfl, by simpa [ifLegal, hl] using h.symm⟩
  | false => exact .inr ⟨rfl, by simpa [ifLegal, hl] using h.symm⟩

/-- A rejection writes ERR, LAST_ERR and the response only (R143). -/
theorem reject_eq (code : Status) (s : State) :
    reject code s = { s with err := true, lastErr := code, rspValid := true, rsp := ⟨code, 0, 0⟩ } := rfl

section
variable (d0 d1 : Word) (s : State)

theorem exec_status : exec (.status d0 d1) s = ifLegal (.status d0 d1) statusBody s := rfl
theorem exec_init : exec (.init d0 d1) s = ifLegal (.init d0 d1) (initBody d0 d1) s := rfl
theorem exec_ad : exec (.ad d0 d1) s = ifLegal (.ad d0 d1) (adBody d0) s := rfl
theorem exec_adEnd : exec (.adEnd d0 d1) s = ifLegal (.adEnd d0 d1) adEndBody s := rfl
theorem exec_enc : exec (.enc d0 d1) s = ifLegal (.enc d0 d1) (encBody d0) s := rfl
theorem exec_dec : exec (.dec d0 d1) s = ifLegal (.dec d0 d1) (decBody d0) s := rfl
theorem exec_final : exec (.final d0 d1) s = ifLegal (.final d0 d1) finalBody s := rfl
theorem exec_clear : exec (.clear d0 d1) s = ifLegal (.clear d0 d1) clearBody s := rfl

end

/-- R134: every reserved command. -/
theorem exec_reserved {i : Instr} (h : reserved i = true) (s : State) : exec i s = rejectReserved s := by
  cases i <;> first | rfl | simp [reserved] at h

/-- What a command does where it is legal; a reserved command never is. -/
def bodyOf : Instr → State → State
  | .status _ _ => statusBody
  | .init d0 d1 => initBody d0 d1
  | .ad d0 _ => adBody d0
  | .adEnd _ _ => adEndBody
  | .enc d0 _ => encBody d0
  | .dec d0 _ => decBody d0
  | .final _ _ => finalBody
  | .clear _ _ => clearBody
  | .cmd8 _ _ => id
  | .cmd9 _ _ => id
  | .cmdA _ _ => id
  | .cmdB _ _ => id
  | .cmdC _ _ => id
  | .cmdD _ _ => id
  | .cmdE _ _ => id
  | .cmdF _ _ => id

/-- R123: everything `exec` can do. -/
theorem exec_eq (i : Instr) (s : State) :
    exec i s = .next (if legal i s.phase then bodyOf i s
      else reject (if reserved i then .errInvalid else .errPhase) s) := by
  cases i <;> rfl

/-- R123: a legal command is not reserved. -/
theorem reserved_of_legal {i : Instr} {ph : Phase} (h : legal i ph = true) : reserved i = false := by
  cases i <;> first | rfl | simp [legal] at h

/-- R123, R143: the next state of `exec`, by cases. -/
theorem exec_cases {i : Instr} {s t : State} (h : exec i s = .next t) :
    (legal i s.phase = true ∧ t = bodyOf i s) ∨
    (legal i s.phase = false ∧ t = reject (if reserved i then .errInvalid else .errPhase) s) := by
  rw [exec_eq] at h
  cases hl : legal i s.phase with
  | true => exact .inl ⟨rfl, by simpa [hl] using h.symm⟩
  | false => exact .inr ⟨rfl, by simpa [hl] using h.symm⟩

/-- R47, R28: what no command touches, and that each answers. -/
theorem exec_frame {i : Instr} {s t : State} (h : exec i s = .next t) :
    t.inputs = s.inputs ∧ t.subst = s.subst ∧ t.fresh = s.fresh ∧ t.lost = s.lost ∧ t.busy = s.busy ∧ t.rnd = s.rnd ∧
      t.held = s.held ∧ t.left = s.left ∧ t.rspValid = true := by
  obtain ⟨hl, rfl⟩ | ⟨-, rfl⟩ := exec_cases h
  · cases i <;> first
      | (simp [legal] at hl; done)
      | (simp [bodyOf, statusBody, initBody, adBody, adEndBody, encBody, decBody, finalBody, clearBody]; done)
      | (simp only [bodyOf, encBody, decBody]; split <;> simp)
  · simp

/-- R62 (log entry 6): the round-count select after a command is the one the command's permutation call drives. -/
theorem exec_rsel {i : Instr} {s t : State} (h : exec i s = .next t) : t.rsel = rselDriven i s := by
  obtain ⟨hl, rfl⟩ | ⟨hl, rfl⟩ := exec_cases h
  · cases i <;> cases hp : s.phase <;> simp [legal, hp] at hl <;>
      simp [bodyOf, statusBody, initBody, adBody, adEndBody, encBody, decBody, finalBody, clearBody, rselDriven, permCall,
        legal, hp]
  · simp [rselDriven, permCall, hl]

/-- R44: no command reads what the host does next. -/
theorem exec_withInputs {i : Instr} {s t : State} (h : exec i s = .next t) (es : List HostInput) :
    exec i { s with inputs := es } = .next { t with inputs := es } := by
  rw [exec_eq]
  obtain ⟨hl, rfl⟩ | ⟨hl, rfl⟩ := exec_cases h <;> simp only [hl, if_true]
  · cases i <;> first | rfl | (simp only [bodyOf, encBody, decBody]; split <;> rfl)
  · rfl

/-- R45: what one clock edge can be. -/
theorem clockEdge_cases (p : Pins) (s : State) :
    (p.rst = true ∧ clockEdge p s = .next (resetCore s)) ∨
    (p.rst = false ∧ s.busy = true ∧ s.left ≤ 1 ∧ clockEdge p s = exec (decodeFrame s.held) (idleEngine s)) ∨
    (p.rst = false ∧ s.busy = true ∧ 1 < s.left ∧ clockEdge p s = .next (runOn s)) ∨
    (p.rst = false ∧ s.busy = false ∧ s.rspValid = true ∧ p.rspReady = true ∧ clockEdge p s = .next (takeResponse s)) ∨
    (p.rst = false ∧ s.busy = false ∧ s.rspValid = true ∧ p.rspReady = false ∧ clockEdge p s = .next s) ∨
    (p.rst = false ∧ s.busy = false ∧ s.rspValid = false ∧ p.cmdValid = true ∧
      clockEdge p s = .next (acceptCommand p s)) ∨
    (p.rst = false ∧ s.busy = false ∧ s.rspValid = false ∧ p.cmdValid = false ∧ clockEdge p s = .next s) := by
  unfold clockEdge
  by_cases hl : s.left ≤ 1 <;> cases p.rst <;> cases s.busy <;> cases s.rspValid <;> cases p.rspReady <;>
    cases p.cmdValid <;> simp [hl] <;> omega

end Sys2Proof.Machine
end

