-- ==== Sys2Proof/Laws/Permutation.lean ====
section
/-! SUPPORT. The bits of a rotation, the columns of the default substitution layer, and that it is a
bijection (a witness of the named assumption of 40_permutation.md R80 (e), R81). -/

namespace Sys2Proof.Machine

/-- R11: bit `j` of a right rotation. -/
theorem ror64_getLsbD (a : Word) (n j : Nat) (hn : n < 64) (hj : j < 64) :
    (ror64 a n).getLsbD j = a.getLsbD ((j + n) % 64) := by
  unfold ror64
  split
  · subst n
    congr 1
    omega
  · rw [BitVec.getLsbD_or, BitVec.getLsbD_ushiftRight, BitVec.getLsbD_shiftLeft]
    by_cases h : j + n < 64
    · rw [Nat.mod_eq_of_lt h, Nat.add_comm n j]
      simp
      omega
    · have hmod : (j + n) % 64 = j - (64 - n) := by omega
      rw [hmod]
      simp only [hj, decide_true, Bool.true_and]
      rw [BitVec.getLsbD_of_ge _ _ (by omega)]
      simp
      omega

/-- Two states are equal if their bits are. -/
theorem Sponge.ext_getLsbD {S T : Sponge}
    (h : ∀ j, j < 64 → S.s0.getLsbD j = T.s0.getLsbD j ∧ S.s1.getLsbD j = T.s1.getLsbD j ∧
      S.s2.getLsbD j = T.s2.getLsbD j ∧ S.s3.getLsbD j = T.s3.getLsbD j ∧ S.s4.getLsbD j = T.s4.getLsbD j) :
    S = T := by
  obtain ⟨a, b, c, d, e⟩ := S
  obtain ⟨a', b', c', d', e'⟩ := T
  congr <;> apply BitVec.eq_of_getLsbD_eq <;> intro j hj <;> have := h j hj <;> tauto

/-- R83: bit `j` of the default layer's words reads bit `j` of its input words only. -/
theorem substDefault_getLsbD (S : Sponge) (j : Nat) (hj : j < 64) :
    let a := S.s0.getLsbD j; let b := S.s1.getLsbD j; let c := S.s2.getLsbD j
    let d := S.s3.getLsbD j; let e := S.s4.getLsbD j
    let T := substDefault S
    let x0 := (a ^^ e) ^^ (!b && (c ^^ b)); let x1 := b ^^ (!(c ^^ b) && d); let x2 := (c ^^ b) ^^ (!d && (e ^^ d))
    let x3 := d ^^ (!(e ^^ d) && (a ^^ e)); let x4 := (e ^^ d) ^^ (!(a ^^ e) && b)
    T.s0.getLsbD j = (x0 ^^ x4) ∧ T.s1.getLsbD j = (x1 ^^ x0) ∧ T.s2.getLsbD j = !x2 ∧ T.s3.getLsbD j = (x3 ^^ x2) ∧
      T.s4.getLsbD j = x4 := by
  simp [substDefault, hj]

/-- R20: there are finitely many states, so a map of states to states that is injective is bijective. -/
theorem Sponge.bijective_of_injective {f : Sponge → Sponge} (h : Function.Injective f) : Function.Bijective f := by
  have : Finite Sponge :=
    Finite.of_injective (fun S => (S.s0.toFin, S.s1.toFin, S.s2.toFin, S.s3.toFin, S.s4.toFin)) (by
      rintro ⟨a, b, c, d, e⟩ ⟨a', b', c', d', e'⟩ h
      simp only [Prod.mk.injEq] at h
      obtain ⟨h0, h1, h2, h3, h4⟩ := h
      congr <;> (apply BitVec.eq_of_toFin_eq; assumption))
  exact Finite.injective_iff_bijective.1 h

/-- R83: no two columns go to one, so no two states do. -/
theorem substDefault_injective : Function.Injective substDefault := by
  intro S T h
  apply Sponge.ext_getLsbD
  intro j hj
  obtain ⟨h0, h1, h2, h3, h4⟩ := substDefault_getLsbD S j hj
  obtain ⟨k0, k1, k2, k3, k4⟩ := substDefault_getLsbD T j hj
  rw [h, k0] at h0; rw [h, k1] at h1; rw [h, k2] at h2; rw [h, k3] at h3; rw [h, k4] at h4
  clear k0 k1 k2 k3 k4 h
  revert h0 h1 h2 h3 h4
  generalize S.s0.getLsbD j = a, S.s1.getLsbD j = b, S.s2.getLsbD j = c, S.s3.getLsbD j = d, S.s4.getLsbD j = e
  generalize T.s0.getLsbD j = a', T.s1.getLsbD j = b', T.s2.getLsbD j = c', T.s3.getLsbD j = d',
    T.s4.getLsbD j = e'
  revert a b c d e a' b' c' d' e'
  decide

theorem substBijective_default : SubstBijective .default := Sponge.bijective_of_injective substDefault_injective

end Sys2Proof.Machine
end

