-- ==== Sys2Proof/Laws/Run.lean ====
section
/-! SUPPORT. A run of commands, command by command and part by part, and the model's steps that do it. -/

namespace Sys2Proof.Machine

/-- R174: the first command of a run is answered, its response taken, and the rest runs on. -/
theorem runCommands_cons {i : Instr} {is : List Instr} {s t u : State} {rs : List Response} (h : exec i s = .next t)
    (h' : runCommands is (takeResponse t) = some (u, rs)) : runCommands (i :: is) s = some (u, t.rsp :: rs) := by
  simp [runCommands, h, h']

/-- R174: what a run of at least one command is. -/
theorem runCommands_cons_inv {i : Instr} {is : List Instr} {s u : State} {rs : List Response}
    (h : runCommands (i :: is) s = some (u, rs)) :
    ∃ t qs, exec i s = .next t ∧ runCommands is (takeResponse t) = some (u, qs) ∧ rs = t.rsp :: qs := by
  simp only [runCommands, exec_eq] at h
  split at h
  · obtain ⟨rfl, rfl⟩ := by simpa using h
    exact ⟨_, _, exec_eq i s, ‹_›, rfl⟩
  · simp at h

/-- R50: a run of two parts is the one after the other. -/
theorem runCommands_append {is js : List Instr} {s t u : State} {rs qs : List Response}
    (h : runCommands is s = some (t, rs)) (h' : runCommands js t = some (u, qs)) :
    runCommands (is ++ js) s = some (u, rs ++ qs) := by
  induction is generalizing s rs with
  | nil =>
    obtain ⟨rfl, rfl⟩ : s = t ∧ [] = rs := by simpa [runCommands] using h
    exact h'
  | cons i is ih =>
    obtain ⟨v, ps, he, hr, rfl⟩ := runCommands_cons_inv h
    exact runCommands_cons he (ih hr)

end Sys2Proof.Machine
end

