-- ==== Sys2Proof/Tests/Slice0.lean ====
section
/-! SUPPORT. The model's own tests, each expected value taken from spec/ (30_encoding.md R55, R56, R65; 95_test_vectors.md),
and for each statement of Certificates/Slice0/Obligations.lean that has hypotheses a witness that meets them all. -/

namespace Sys2Proof.Tests

open Sys2Proof Sys2Proof.Machine Sys2Proof.Safety

/-! ### Helpers -/

/-- A check on the next state; a fault or a refusal fails it. -/
def onNext (o : Host.Outcome State Fault Refusal) (check : State → Bool) : Bool :=
  match o with
  | .next t => check t
  | .fault _ => false
  | .refused _ => false

/-- The golden key of 95_test_vectors.md. -/
def goldenKey : Key := ⟨0x0123456789abcdef, 0xfedcba9876543210⟩

/-- A state in a phase of a session under the golden key. -/
def inPhase (ph : Phase) (S : Sponge) : State := { State.reset with phase := ph, S := S, K := goldenKey }

/-- S after vector S1 of 95_test_vectors.md. -/
def afterInit : Sponge :=
  ⟨0x78ea7ae5cfebb108, 0x9b9bfb8513b560f7, 0x6937f83e03d11a50, 0x3ec67a517b6ada63, 0xfa81de163bbb20d9⟩

/-- S after vector S7. -/
def afterAdEnd : Sponge := { afterInit with s4 := 0xfa81de163bbb20d8 }

/-- S after vector S9. -/
def afterEnc : Sponge := { afterAdEnd with s0 := 0x79c93f8246407ce7 }

/-- The state T of 95_test_vectors.md section 2.2. -/
def vectorT : Sponge := ⟨0x0123456789abcdef, 0xfedcba9876543210, 0, 0x1111111111111111, 0xffffffffffffffff⟩

/-- Pins with nothing offered and nothing taken. -/
def quiet : Pins := ⟨false, false, 0, 0, 0, false⟩

/-- Pins that offer `AD 0x5`. -/
def offerAd : Pins := ⟨false, true, 0x2, 5, 0, false⟩

/-! ### Well-formedness: each check refuses an ill-formed term -/

theorem test_raw_too_wide : rawWf (2 ^ 132) = false ∧ decode (2 ^ 132) = .error (.strayBits (2 ^ 132)) := by decide
theorem test_raw_widest : decode (2 ^ 132 - 1) = .ok (.cmdF 0xffffffffffffffff 0xffffffffffffffff) := by decide
theorem test_init_k0_too_wide : (Asm.init (2 ^ 64) 0).wf = false ∧ assemble (.init (2 ^ 64) 0) = .error .literalTooWide := by
  decide
theorem test_init_k1_too_wide : (Asm.init 0 (2 ^ 64)).wf = false ∧ assemble (.init 0 (2 ^ 64)) = .error .literalTooWide := by
  decide
theorem test_ad_too_wide : (Asm.ad (2 ^ 64)).wf = false ∧ assemble (.ad (2 ^ 64)) = .error .literalTooWide := by decide
theorem test_enc_too_wide : (Asm.enc (2 ^ 64)).wf = false ∧ assemble (.enc (2 ^ 64)) = .error .literalTooWide := by decide
theorem test_dec_too_wide : (Asm.dec (2 ^ 64)).wf = false ∧ assemble (.dec (2 ^ 64)) = .error .literalTooWide := by decide
theorem test_cmd_not_reserved : (Asm.cmd 7).wf = false ∧ assemble (.cmd 7) = .error .notReserved := by decide
theorem test_cmd_above_f : (Asm.cmd 16).wf = false ∧ assemble (.cmd 16) = .error .notReserved := by decide
/-- R58: no operand value makes a command illegal. -/
theorem test_instr_always_wf : (Instr.status 0xdead 0xbeef).wf = true ∧ (Instr.cmd8 1 2).wf = true := by decide

/-! ### Decoding: words written out from R55 and R56, with every operand bit seen (R65 where it gives one) -/

theorem test_decode_status : decode 0x000000000000000000000000000000000 = .ok (.status 0 0) := by decide
theorem test_decode_init : decode 0x1fedcba98765432100123456789abcdef =
    .ok (.init 0x0123456789abcdef 0xfedcba9876543210) := by decide
theorem test_decode_ad : decode 0x200000000000000001122334455667788 = .ok (.ad 0x1122334455667788 0) := by decide
theorem test_decode_adEnd : decode 0x3000000000000beef000000000000dead = .ok (.adEnd 0xdead 0xbeef) := by decide
theorem test_decode_enc : decode 0x400000000000000000123456789abcdef = .ok (.enc 0x0123456789abcdef 0) := by decide
theorem test_decode_dec : decode 0x5000000000000000079c93f8246407ce7 = .ok (.dec 0x79c93f8246407ce7 0) := by decide
theorem test_decode_final : decode 0x600000000000000020000000000000001 = .ok (.final 1 2) := by decide
theorem test_decode_clear : decode 0x700000000000000000000000000000000 = .ok (.clear 0 0) := by decide
theorem test_decode_cmd8 : decode 0x800000000000000000000000000000000 = .ok (.cmd8 0 0) := by decide
theorem test_decode_cmd9 : decode 0x900000000000000000000000000000000 = .ok (.cmd9 0 0) := by decide
theorem test_decode_cmdA : decode 0xa80000000000000000000000000000001 = .ok (.cmdA 1 0x8000000000000000) := by decide
theorem test_decode_cmdB : decode 0xb00000000000000018000000000000000 = .ok (.cmdB 0x8000000000000000 1) := by decide
theorem test_decode_cmdC : decode 0xc00000000000000000000000000000000 = .ok (.cmdC 0 0) := by decide
theorem test_decode_cmdD : decode 0xd00000000000000000000000000000000 = .ok (.cmdD 0 0) := by decide
theorem test_decode_cmdE : decode 0xe00000000000000000000000000000000 = .ok (.cmdE 0 0) := by decide
theorem test_decode_cmdF : decode 0xf00000000000056780000000000001234 = .ok (.cmdF 0x1234 0x5678) := by decide

/-- R55: the frame of R65's INIT line, from its fields. -/
theorem test_encode_init : encode (.init 0x0123456789abcdef 0xfedcba9876543210) = 0x1fedcba98765432100123456789abcdef := by
  decide

/-- R55, opcode_table.json: a table word is read in its low bits, and a word placed in a reset core runs at the next step. -/
theorem test_table_word : decodeTableWord 136 0x200000000000000001122334455667788 = some (.ad 0x1122334455667788 0) ∧
    decodeTableWord 4 0xff = some (.status 0xf 0) := by decide
theorem test_withFetchWord_runs : onNext (step (State.reset.withFetchWord 136 0x1fedcba98765432100123456789abcdef))
    (fun t => t.S == afterInit && t.K == goldenKey && t.phase == .initialized) = true := by decide

/-! ### The assembler: R63, from the characters of a line -/

theorem test_parse_init : parseLine "INIT 0x1, 0xab ; a key".toList = .ok (some (.init 0x1 0xab)) := by decide
theorem test_parse_reserved : parseLine ".cmd 0x9".toList = .ok (some (.cmd 9)) := by decide
theorem test_parse_comment : parseLine "; FINAL".toList = .ok none := by decide
theorem test_parse_no_prefix : parseLine "AD 12".toList = .error .badLiteral := by decide
theorem test_parse_operands : parseLine "ENC 0x1, 0x2".toList = .error .operandCount := by decide
theorem test_parse_unknown : parseLine "NOP".toList = .error .unknownMnemonic := by decide

/-! ### The permutation engine: 95_test_vectors.md sections 2.1 to 2.4 -/

theorem test_pC_ones : pC ⟨~~~0, ~~~0, ~~~0, ~~~0, ~~~0⟩ 11 = ⟨~~~0, ~~~0, 0xffffffffffffffb4, ~~~0, ~~~0⟩ := by decide
theorem test_pS_T : substDefault vectorT =
    ⟨0x1032547698badcfe, 0x0101010101010101, 0xefcdab8967452301, 0x1133557799bbddff, 0xeeeeeeeeeeeeeeee⟩ := by decide
theorem test_pS_column_16 : substDefault ⟨1, 0, 0, 0, 0⟩ = ⟨1, 1, 0xffffffffffffffff, 1, 0⟩ := by decide
theorem test_pS_column_1 : substDefault ⟨0, 0, 0, 0, 1⟩ = ⟨0, 1, 0xfffffffffffffffe, 1, 1⟩ := by decide
theorem test_pL_bit_0 : pL ⟨1, 1, 1, 1, 1⟩ =
    ⟨0x0000201000000001, 0x0000000002000009, 0x8400000000000001, 0x0040800000000001, 0x0200000000800001⟩ := by decide
theorem test_pL_T : pL vectorT = ⟨0xe2227bb3f3336aa2, 0x38d5c63fe5081be2, 0, 0xdddddddddddddddd, 0xffffffffffffffff⟩ := by
  decide
theorem test_round_6 : round .default 6 ⟨0, 0, 0, 0, 0⟩ =
    ⟨0x0012c96000000096, 0x000000012c000426, 0xa7ffffffffffff20, 0x25cb000000000096, 0⟩ := by decide
theorem test_P6_T : permute .default .short vectorT =
    ⟨0x5a6ca30aeca93d53, 0x3986e9eadea0987c, 0x07f0acd71cba27b1, 0xb04fa587d96339ad, 0xe35c8ed9bc804baa⟩ := by decide
theorem test_P12_T : permute .default .long vectorT =
    ⟨0xe24c9545a890158f, 0x840ec51402d0dbc7, 0xfb83ed6c34275254, 0xac816939983b9766, 0x7c09b774e46f0ef4⟩ := by decide
/-- R87: the published value. -/
theorem test_P12_published : permute .default .long ⟨0x00400c0000000100, 0, 0, 0, 0⟩ =
    ⟨0xee9398aadb67f03d, 0x8bb21831c60f1002, 0xb48a92db98d5da62, 0x43189921b8f8e3e8, 0x348fa5c9d525e140⟩ := by decide

/-! ### The commands: 95_test_vectors.md sections 2.5 (S1 to S19) and 2.6 (E1 to E16) -/

theorem test_status_E3 : onNext (exec (.status 0 0) { inPhase .initialized afterInit with err := true, lastErr := .errPhase })
    (fun t => t.rsp == ⟨.ok, 0x19, 0⟩ && t.err && t.lastErr == .errPhase) = true := by decide
theorem test_status_E6 : onNext (exec (.status 7 7) { inPhase .decrypting afterEnc with err := true, lastErr := .errPhase })
    (fun t => t.rsp == ⟨.ok, 0x1c, 0⟩ && t.S == afterEnc) = true := by decide
theorem test_init_S1 : onNext (exec (.init 0x0123456789abcdef 0xfedcba9876543210) State.reset)
    (fun t => t.S == afterInit && t.K == goldenKey && t.rsp == ⟨.ok, 0, 0⟩) = true := by decide
theorem test_init_S2 : onNext (exec (.init 0 0) (inPhase .finalized vectorT))
    (fun t => t.S == ⟨0x78ea7ae5cfebb108, 0x9b9bfb8513b560f7, 0x6937f83e03d11a50, 0x3fe53f36f2c1178c, 0x045d648e4def12c9⟩ &&
      t.K == ⟨0, 0⟩ && t.phase == .initialized) = true := by decide
theorem test_ad_S4 : onNext (exec (.ad 0x1122334455667788 0) (inPhase .initialized afterInit))
    (fun t => t.S == ⟨0xddc814bb086ac32c, 0x1922b1b4645e71c9, 0x202b6082e2e4b584, 0x24774cfbf3150180, 0x0260589b1dfe25a0⟩ &&
      t.phase == .initialized) = true := by decide
theorem test_ad_S5 : onNext (exec (.ad 0 0xffffffffffffffff) (inPhase .initialized afterInit))
    (fun t => t.S == ⟨0xfe374e3dbcd1bd42, 0xa0bedba34bfb7eb4, 0x2ea6e8b953d9140a, 0x2f2943eed20e9735, 0xe9fea23dce262040⟩) =
    true := by decide
theorem test_adEnd_S7 : onNext (exec (.adEnd 0xdead 0xbeef) (inPhase .initialized afterInit))
    (fun t => t.S == afterAdEnd && t.phase == .absorbedAd && t.rsp == ⟨.ok, 0, 0⟩) = true := by decide
theorem test_adEnd_E10 : onNext (exec (.adEnd 0 0) (inPhase .absorbedAd afterAdEnd))
    (fun t => t.rsp == ⟨.errPhase, 0, 0⟩ && t.S == afterAdEnd && statusWord t == 0x1a) = true := by decide
theorem test_enc_S9 : onNext (exec (.enc 0x0123456789abcdef 0xffffffffffffffff) (inPhase .absorbedAd afterAdEnd))
    (fun t => t.rsp == ⟨.ok, 0x79c93f8246407ce7, 0⟩ && t.S == afterEnc && t.phase == .encrypting) = true := by decide
/-- P2 row 5: a later block runs P6 first. -/
theorem test_enc_S11 : onNext (exec (.enc 0xb 0) (inPhase .encrypting
      ⟨0xddc814bb086ac326, 0x1922b1b4645e71c9, 0x202b6082e2e4b584, 0x24774cfbf3150180, 0x0260589b1dfe25a1⟩))
    (fun t => t.rsp == ⟨.ok, 0x9a8eaf748cf8b5cd, 0⟩ &&
      t.S == ⟨0x9a8eaf748cf8b5cd, 0x5e08d5d86fbb6055, 0x804df1f27aafdbc3, 0x1cd933659f168584, 0x61017cbbe6ae8676⟩) =
    true := by decide
theorem test_dec_S12 : onNext (exec (.dec 0x79c93f8246407ce7 0) (inPhase .absorbedAd afterAdEnd))
    (fun t => t.rsp == ⟨.ok, 0x0123456789abcdef, 0⟩ && t.S == afterEnc && t.phase == .decrypting) = true := by decide
/-- P2 decrypt row 5: the rate word becomes the block received. -/
theorem test_dec_later : onNext (exec (.dec 0x9a8eaf748cf8b5cd 0) (inPhase .decrypting
      ⟨0xddc814bb086ac326, 0x1922b1b4645e71c9, 0x202b6082e2e4b584, 0x24774cfbf3150180, 0x0260589b1dfe25a1⟩))
    (fun t => t.rsp == ⟨.ok, 0xb, 0⟩ &&
      t.S == ⟨0x9a8eaf748cf8b5cd, 0x5e08d5d86fbb6055, 0x804df1f27aafdbc3, 0x1cd933659f168584, 0x61017cbbe6ae8676⟩) =
    true := by decide
theorem test_final_S14 : onNext (exec (.final 1 2) (inPhase .encrypting afterEnc))
    (fun t => t.rsp == ⟨.ok, 0xff6d68e37cc0a9e6, 0xf425e23823976c17⟩ && t.phase == .finalized &&
      t.S == ⟨0x18c45f48e4064a15, 0xafc4eeb7daecdc21, 0x687250c1ebdcf79a, 0xff6d68e37cc0a9e6, 0xf425e23823976c17⟩) =
    true := by decide
theorem test_final_S16 : onNext (exec (.final 0 0) (inPhase .absorbedAd afterAdEnd))
    (fun t => t.rsp == ⟨.ok, 0x08d7cb495ff9f6ec, 0x8feabee2aacd10f4⟩ && t.K == goldenKey) = true := by decide
theorem test_clear_E15 : onNext (exec (.clear 1 2) { inPhase .encrypting afterEnc with err := true, lastErr := .errInvalid })
    (fun t => t.rsp == ⟨.ok, 0, 0⟩ && t.S == ⟨0, 0, 0, 0, 0⟩ && t.K == ⟨0, 0⟩ && statusWord t == 0) = true := by decide
theorem test_cmd8_E13 : onNext (exec (.cmd8 0 0) State.reset)
    (fun t => t.rsp == ⟨.errInvalid, 0, 0⟩ && statusWord t == 0x28) = true := by decide
theorem test_cmd9_E5 : onNext (exec (.cmd9 0 0) (inPhase .absorbedAd afterAdEnd))
    (fun t => t.rsp == ⟨.errInvalid, 0, 0⟩ && statusWord t == 0x2a && t.S == afterAdEnd) = true := by decide
theorem test_cmdF_E4 : onNext (exec (.cmdF 0x1234 0x5678) (inPhase .initialized afterInit))
    (fun t => t.rsp == ⟨.errInvalid, 0, 0⟩ && statusWord t == 0x29 && t.K == goldenKey) = true := by decide
theorem test_reserved_others : [Instr.cmdA 0 0, .cmdB 0 0, .cmdC 0 0, .cmdD 0 0, .cmdE 0 0].all (fun i =>
    onNext (exec i (inPhase .finalized afterEnc)) (fun t => t.rsp == ⟨.errInvalid, 0, 0⟩ && t.phase == .finalized)) = true := by
  decide

/-- R61: a response is 130 bits, status above `r1` above `r0`. -/
theorem test_response_encoding : Response.encode ⟨.errInvalid, 0x3, 0x1⟩ = 0x200000000000000010000000000000003 := by decide

/-! ### The command port: 20_memory.md R45, 70_reset_and_hazards.md R160 -/

theorem test_edge_accepts : onNext (clockEdge offerAd (inPhase .initialized afterInit))
    (fun t => t.busy && t.S == afterInit && !t.rspValid && decodeFrame t.held == .ad 5 0) = true := by decide
theorem test_edge_responds : onNext (clockEdge quiet
      { inPhase .absorbedAd afterAdEnd with busy := true, left := 1, held := 0x400000000000000000123456789abcdef })
    (fun t => !t.busy && t.rspValid && t.rsp == ⟨.ok, 0x79c93f8246407ce7, 0⟩ && t.phase == .encrypting) = true := by decide
theorem test_edge_reset : onNext (clockEdge { offerAd with rst := true }
      { inPhase .encrypting afterEnc with busy := true, left := 3 })
    (fun t => t.toRegs == State.reset.toRegs) = true := by decide
theorem test_edge_taken : onNext (clockEdge { quiet with rspReady := true } { inPhase .encrypting afterEnc with rspValid := true })
    (fun t => !t.rspValid && cmdReady false t && t.S == afterEnc) = true := by decide
theorem test_offer_not_ready : onNext (step { inPhase .initialized afterInit with
      rspValid := true, inputs := [.command 0x300000000000000000000000000000000] })
    (fun t => t.S == afterInit && t.phase == .initialized && t.inputs == []) = true := by decide
theorem test_take : onNext (step { State.reset with rspValid := true, inputs := [.take] })
    (fun t => !t.rspValid && t.fresh == 1) = true := by decide

/-! ### Witnesses: for each statement with hypotheses, values that meet them all -/

theorem witness_EncodingRoundTrip : (Instr.cmdF 0xffffffffffffffff 0x8000000000000000).wf = true := by decide
theorem witness_DecodingRoundTrip : (0 < 2 ^ 132 ∧ 2 ^ 132 - 1 < 2 ^ 132) ∧ 2 ^ 132 ≤ 2 ^ 132 := by decide
theorem witness_OpcodeAloneSelects : ((0xf00000000000000000000000000000000 : Frame), Instr.cmdF) ∈ opcodeTable[15]? ∧
    ((0x000000000000000000000000000000000 : Frame), Instr.status) ∈ opcodeTable[0]? := ⟨rfl, rfl⟩
theorem witness_UnusedOperandsIgnored :
    ((Instr.ad 5 0).opcode = (Instr.ad 5 9).opcode ∧ (1 ≤ operandsUsed (.ad 5 0) → (Instr.ad 5 0).d0 = (Instr.ad 5 9).d0) ∧
      (2 ≤ operandsUsed (.ad 5 0) → (Instr.ad 5 0).d1 = (Instr.ad 5 9).d1)) ∧
    ((Instr.final 1 2).opcode = (Instr.final 3 4).opcode ∧ operandsUsed (.final 1 2) = 0) ∧
    (assemble (.enc 5) = .ok (.enc 5 0) ∧ operandsUsed (.enc 5 0) < 2) ∧
    (assemble .final = .ok (.final 0 0) ∧ operandsUsed (.final 0 0) < 1) := by decide
/-- For each clause about the text of a line a text that meets it: blanks around, no operand, a wrong number of operands,
operands of either case with blanks around, an operand with no `0x` or no digits, a word that is no mnemonic. -/
theorem witness_AssemblerPlacesOperands :
    parseLine (" \t".toList ++ "AD 0x1".toList ++ "\t".toList) = .ok (some (.ad 1)) ∧
    parseLine ("FINAL".toList ++ ';' :: " AD 0x1".toList) = .ok (some .final) ∧
    parseLine "STATUS".toList = .ok (some .status) ∧ parseLine "INIT".toList = .error .operandCount ∧
    parseLine ("INIT".toList ++ " ".toList ++ " 0xaB\t, 0x0".toList) = .ok (some (.init 0xab 0)) ∧
    parseLine "CLEAR 0x0".toList = .error .operandCount ∧
    parseLine "AD 12".toList = .error .badLiteral ∧ parseLine "AD 0x".toList = .error .badLiteral ∧
    parseLine ("ad".toList ++ " 0x1".toList) = .error .unknownMnemonic ∧
    (0 < 2 ^ 64 ∧ 2 ^ 64 - 1 < 2 ^ 64) ∧ (2 ^ 64 ≤ 2 ^ 64 ∨ 2 ^ 64 ≤ 0) ∧ (2 ^ 64 ≤ 0 ∨ 2 ^ 64 ≤ 2 ^ 64) ∧
    (8 ≤ 8 ∧ 15 ≤ 15) ∧ (7 < 8 ∨ 15 < 7) ∧ (16 < 8 ∨ 15 < 16) := by decide
/-- Texts between commas that are no literal: empty, with a blank inside, with a blank beside it, a comma alone. -/
theorem witness_AssemblerPlacesOperands_badLiteral :
    parseLine ("INIT ".toList ++ [','].intercalate ["0x1".toList, []]) = .error .badLiteral ∧
    parseLine "AD 0x1 0x2".toList = .error .badLiteral ∧ parseLine "INIT 12 , 0x1".toList = .error .badLiteral ∧
    parseLine "AD ,".toList = .error .badLiteral ∧ ',' ∈ [','].intercalate [[], []] ∧ ¬ (',' = ' ' ∨ ',' = '\t') := by
  decide
theorem witness_PermutationUsesConstantsInOrder : 0 < Rounds.short.count ∧ 5 < Rounds.short.count ∧ 11 < Rounds.long.count := by
  decide
theorem witness_ConstantInjectionTouchesLowByte : (0 : Fin 16).val ≤ 11 ∧ (11 : Fin 16).val ≤ 11 ∧ 8 ≤ 8 ∧
    11 < Rounds.long.count := by decide
theorem witness_DefaultSubstitutionIsColumnBox : 0 < 32 ∧ 31 < 32 ∧ 0 < 64 ∧ 63 < 64 := by decide
theorem witness_DiffusionBitByBit : 0 < 64 ∧ 63 < 64 := by decide
theorem witness_PermutationBijective : SubstBijective .default := substBijective_default

theorem witness_InitRule : (State.reset.phase = .uninit ∨ State.reset.phase = .finalized) ∧
    ((inPhase .finalized afterEnc).phase = .uninit ∨ (inPhase .finalized afterEnc).phase = .finalized) ∧
    ¬ ((inPhase .decrypting afterEnc).phase = .uninit ∨ (inPhase .decrypting afterEnc).phase = .finalized) ∧
    (State.reset.subst = .default ∧ ∃ t, exec (.init 0x0123456789abcdef 0xfedcba9876543210) State.reset = .next t) :=
  ⟨.inl rfl, .inr rfl, by decide, rfl, _, rfl⟩
theorem witness_AdRule : (inPhase .initialized afterInit).phase = .initialized ∧ State.reset.phase ≠ .initialized ∧
    ((inPhase .initialized afterInit).subst = .default ∧
      (inPhase .initialized afterInit).S =
        ⟨0x78ea7ae5cfebb108, 0x9b9bfb8513b560f7, 0x6937f83e03d11a50, 0x3ec67a517b6ada63, 0xfa81de163bbb20d9⟩ ∧
      ∃ t, exec (.ad 0x1122334455667788 0) (inPhase .initialized afterInit) = .next t) :=
  ⟨rfl, by decide, rfl, rfl, _, rfl⟩
theorem witness_AdEndRule : ((inPhase .initialized afterInit).phase = .initialized ∧
      (∃ t, exec (.adEnd 0 0) (inPhase .initialized afterInit) = .next t) ∧
      (inPhase .initialized afterInit).S.s4 = 0xfa81de163bbb20d9) ∧
    (inPhase .absorbedAd afterAdEnd).phase ≠ .initialized := ⟨⟨rfl, ⟨_, rfl⟩, rfl⟩, by decide⟩
theorem witness_EncRule : (inPhase .absorbedAd afterAdEnd).phase = .absorbedAd ∧
    (inPhase .encrypting afterEnc).phase = .encrypting ∧
    ¬ ((inPhase .decrypting afterEnc).phase = .absorbedAd ∨ (inPhase .decrypting afterEnc).phase = .encrypting) ∧
    (State.reset.subst = .default ∧ (State.reset.phase = .uninit ∨ State.reset.phase = .finalized)) := by decide
theorem witness_DecRule : (inPhase .absorbedAd afterAdEnd).phase = .absorbedAd ∧
    (inPhase .decrypting afterEnc).phase = .decrypting ∧
    ¬ ((inPhase .encrypting afterEnc).phase = .absorbedAd ∨ (inPhase .encrypting afterEnc).phase = .decrypting) ∧
    (((inPhase .decrypting afterEnc).phase = .absorbedAd ∨ (inPhase .decrypting afterEnc).phase = .decrypting) ∧
      (∃ t, exec (.dec 5 0) (inPhase .decrypting afterEnc) = .next t) ∧
      ∃ u, exec (.dec (5 ^^^ 1) 0) (inPhase .decrypting afterEnc) = .next u) ∧
    (State.reset.subst = .default ∧ (State.reset.phase = .uninit ∨ State.reset.phase = .finalized)) :=
  ⟨rfl, rfl, by decide, ⟨.inr rfl, ⟨_, rfl⟩, _, rfl⟩, rfl, .inl rfl⟩
theorem witness_FinalRule :
    (∀ ph ∈ [Phase.absorbedAd, .encrypting, .decrypting], (inPhase ph afterEnc).phase = .absorbedAd ∨
      (inPhase ph afterEnc).phase = .encrypting ∨ (inPhase ph afterEnc).phase = .decrypting) ∧
    (∀ ph ∈ [Phase.uninit, .initialized, .finalized], (inPhase ph afterEnc).phase = .uninit ∨
      (inPhase ph afterEnc).phase = .initialized ∨ (inPhase ph afterEnc).phase = .finalized) ∧
    (State.reset.subst = .default ∧ (State.reset.phase = .uninit ∨ State.reset.phase = .finalized)) := by decide
theorem witness_StatusRule : (∃ t, exec (.status 0 0) State.reset = .next t) ∧ 6 ≤ 6 ∧ 6 ≤ 63 :=
  ⟨⟨_, rfl⟩, by decide, by decide⟩
theorem witness_ClearRule : (∃ t, exec (.clear 1 2) (inPhase .finalized afterEnc) = .next t) ∧
    (Inv State.reset ∧ State.reset.lost = false ∧ State.reset.phase = .uninit ∧ State.reset.err = false ∧
      ∃ t, exec (.clear 0 0) State.reset = .next t) := ⟨⟨_, rfl⟩, by decide, rfl, rfl, rfl, _, rfl⟩
theorem witness_ReservedRule : 8 ≤ (0x8#4).toNat ∧ 8 ≤ (0xf#4).toNat ∧
    (∀ i ∈ [Instr.cmd8 0 0, .cmd9 0 0, .cmdA 0 0, .cmdB 0 0, .cmdC 0 0, .cmdD 0 0, .cmdE 0 0, .cmdF 1 2], reserved i = true) ∧
    (inPhase .absorbedAd afterAdEnd).phase = .absorbedAd := by decide

theorem witness_StepFunctionOrder : reserved (.cmd8 0 0) = true ∧
    (reserved (.ad 0 0) = false ∧ legal (.ad 0 0) State.reset.phase = false) ∧
    (reserved (.init 1 2) = false ∧ legal (.init 1 2) State.reset.phase = true) ∧ (Instr.init 1 2).opcode ≠ 0x7 ∧
    (reserved (.clear 0 0) = false ∧ legal (.clear 0 0) State.reset.phase = true ∧ (Instr.clear 0 0).opcode = 0x7) ∧
    { quiet with rst := true }.rst = true := by decide
theorem witness_ErrorCauses : (∃ t, exec (.ad 0 0) State.reset = .next t ∧ t.rsp.status ≠ .ok) ∧
    ((Instr.status 0 0).opcode = 0x0 ∨ (Instr.status 0 0).opcode = 0x7) ∧
    ((Instr.clear 0 0).opcode = 0x0 ∨ (Instr.clear 0 0).opcode = 0x7) :=
  ⟨⟨_, rfl, by decide⟩, by decide, by decide⟩
theorem witness_PhaseTransitionTable : phaseTable (.final 0 0) .decrypting = .ok .finalized ∧
    phaseTable (.ad 0 0) .uninit = .error .errPhase ∧
    ((Instr.enc 1 0).opcode = 0x4 ∧ (inPhase .encrypting afterEnc).phase = .encrypting) ∧
    ((Instr.dec 1 0).opcode = 0x5 ∧ (inPhase .decrypting afterEnc).phase = .decrypting) := by decide
theorem witness_RejectionLeavesNoTrace : legal (.ad 5 0) State.reset.phase = false ∧
    ∀ j ∈ [Instr.init 1 2, .adEnd 0 0], readsNoStatus j := by
  refine ⟨rfl, ?_⟩
  unfold readsNoStatus
  decide
theorem witness_RejectionsInARow : (∀ j ∈ [Instr.ad 5 0] ++ [.cmd9 0 0], legal j State.reset.phase = false) ∧
    ((Instr.init 1 2).opcode ≠ 0x7 ∧ legal (.init 1 2) State.reset.phase = true ∧
      ∃ t, exec (.init 1 2) State.reset = .next t) := ⟨by decide, by decide, rfl, _, rfl⟩

theorem witness_StatusWordLayout : (∃ t, exec (.final 0 0) State.reset = .next t ∧ t.rsp.status ≠ .ok ∧
      reserved (.final 0 0) = false ∧ legal (.final 0 0) State.reset.phase = false) ∧
    (∃ t, exec (.init 1 2) State.reset = .next t ∧ t.rsp.status = .ok ∧ (Instr.init 1 2).opcode ≠ 0x7 ∧
      reserved (.init 1 2) = false ∧ legal (.init 1 2) State.reset.phase = true) ∧
    (∃ t, exec (.cmd8 0 0) State.reset = .next t ∧ reserved (.cmd8 0 0) = true) ∧
    (∃ t, exec (.clear 0 0) State.reset = .next t ∧ (Instr.clear 0 0).opcode = 0x7) :=
  ⟨⟨_, rfl, by decide, rfl, rfl⟩, ⟨_, rfl, rfl, by decide, rfl, rfl⟩, ⟨_, rfl, rfl⟩, _, rfl, rfl⟩
theorem witness_KeyWriters : (∃ t, exec (.init 1 2) State.reset = .next t ∧ (Instr.init 1 2).opcode = 0x1 ∧
      legal (.init 1 2) State.reset.phase = true) ∧
    (∃ t, exec (.clear 0 0) State.reset = .next t ∧ (Instr.clear 0 0).opcode = 0x7) ∧
    (∃ t, exec (.init 1 2) (inPhase .encrypting afterEnc) = .next t ∧
      ¬ ((Instr.init 1 2).opcode = 0x1 ∧ legal (.init 1 2) (inPhase .encrypting afterEnc).phase = true) ∧
      (Instr.init 1 2).opcode ≠ 0x7) := ⟨⟨_, rfl, rfl, rfl⟩, ⟨_, rfl, rfl⟩, ⟨_, rfl, by decide, by decide⟩⟩
theorem witness_KeyReadByFinalOnly :
    ((Instr.enc 1 0).opcode ≠ 0x6 ∧ ∃ t, exec (.enc 1 0) (inPhase .encrypting afterEnc) = .next t) ∧
    (∃ t, exec (.final 0 0) (inPhase .encrypting afterEnc) = .next t ∧
      legal (.final 0 0) (inPhase .encrypting afterEnc).phase = true) ∧
    (∃ t, exec (.final 0 0) State.reset = .next t ∧ legal (.final 0 0) State.reset.phase = false) :=
  ⟨⟨by decide, _, rfl⟩, ⟨_, rfl, rfl⟩, _, rfl, rfl⟩
theorem witness_StateWordWriters : (∃ t, exec (.enc 1 0) (inPhase .absorbedAd afterAdEnd) = .next t) ∧
    (∃ u, exec (.enc 2 3) (inPhase .absorbedAd afterAdEnd) = .next u) ∧ (Instr.enc 1 0).opcode = (Instr.enc 2 3).opcode ∧
    ((Instr.enc 1 0).opcode = 0x4 ∨ (Instr.enc 1 0).opcode = 0x5) ∧
    (inPhase .absorbedAd afterAdEnd).phase = .absorbedAd ∧ legal (.enc 1 0) State.reset.phase = false ∧
    (Instr.status 0 0).opcode = 0x0 ∧ (Instr.adEnd 0 0).opcode = 0x3 ∧ (Instr.clear 0 0).opcode = 0x7 :=
  ⟨⟨_, rfl⟩, ⟨_, rfl⟩, rfl, .inl rfl, rfl, rfl, rfl, rfl, rfl⟩
theorem witness_RateHoldsCiphertext : (∃ t, exec (.enc 1 0) (inPhase .encrypting afterEnc) = .next t ∧ t.rsp.status = .ok) ∧
    (∃ t, exec (.dec 1 0) (inPhase .decrypting afterEnc) = .next t ∧ t.rsp.status = .ok) := ⟨⟨_, rfl, rfl⟩, ⟨_, rfl, rfl⟩⟩
theorem witness_TagStaysUntilNewSession :
    (∃ t, exec (.final 0 0) (inPhase .encrypting afterEnc) = .next t ∧
      legal (.final 0 0) (inPhase .encrypting afterEnc).phase = true) ∧
    ((inPhase .finalized afterEnc).phase = .finalized ∧
      (∀ i ∈ [Instr.final 0 0, .status 0 0], i.opcode ≠ 0x1 ∧ i.opcode ≠ 0x7) ∧
      ∃ t rs, runCommands [.final 0 0, .status 0 0] (inPhase .finalized afterEnc) = some (t, rs)) :=
  ⟨⟨_, rfl, rfl⟩, rfl, by decide, _, _, rfl⟩

theorem witness_AbsorbsInOrder : (inPhase .initialized afterInit).phase = .initialized := rfl
theorem witness_EncryptDecryptSymmetric : (inPhase .absorbedAd afterAdEnd).phase = .absorbedAd ∧
    ((inPhase .encrypting afterEnc).phase = .encrypting ∧
      inPhase .decrypting afterEnc = { inPhase .encrypting afterEnc with phase := .decrypting }) := ⟨rfl, rfl, rfl⟩
theorem witness_SessionRoundTrip : (State.reset.phase = .uninit ∨ State.reset.phase = .finalized) ∧
    ((inPhase .finalized afterEnc).phase = .uninit ∨ (inPhase .finalized afterEnc).phase = .finalized) ∧
    (inPhase .finalized afterEnc).subst = State.reset.subst := by decide
theorem witness_NoNonceConsequences : (State.reset.phase = .uninit ∨ State.reset.phase = .finalized) ∧
    (∃ t, exec (.init 1 2) State.reset = .next t) ∧ State.reset.subst = .default ∧
    ((inPhase .finalized afterEnc).phase = .uninit ∨ (inPhase .finalized afterEnc).phase = .finalized) ∧
    (inPhase .finalized afterEnc).subst = State.reset.subst ∧ (∀ i ∈ [Instr.adEnd 0 0, .enc 5 0], readsNoStatus i) := by
  refine ⟨.inl rfl, ⟨_, rfl⟩, rfl, .inr rfl, rfl, ?_⟩
  unfold readsNoStatus
  decide
theorem witness_DomainSeparationExactlyOnce :
    (inPhase .initialized afterInit).phase = .initialized ∧
    (∃ t rs, runCommands [.adEnd 0 0, .final 0 0] (inPhase .initialized afterInit) = some (t, rs) ∧ t.phase = .finalized) ∧
    (∀ i ∈ acceptedOf [.adEnd 0 0, .final 0 0] (inPhase .initialized afterInit), i.opcode ≠ 0x1 ∧ i.opcode ≠ 0x7) :=
  ⟨rfl, ⟨_, _, rfl, rfl⟩, by decide⟩
theorem witness_AbsorptionCannotBeSkipped : (inPhase .initialized afterInit).phase = .initialized ∧
    (∀ i ∈ [Instr.enc 1 0, .dec 1 0, .final 0 0], i.opcode ≠ 0x3 ∧ i.opcode ≠ 0x7) ∧
    (Instr.final 0 0).opcode = 0x6 := by decide
theorem witness_DirectionIsFixed :
    (∃ t, exec (.enc 1 0) (inPhase .absorbedAd afterAdEnd) = .next t ∧ t.rsp.status = .ok) ∧
    (∃ t, exec (.dec 1 0) (inPhase .absorbedAd afterAdEnd) = .next t ∧ t.rsp.status = .ok) ∧
    ((inPhase .encrypting afterEnc).phase = .encrypting ∨ (inPhase .encrypting afterEnc).phase = .decrypting) ∧
    ((inPhase .decrypting afterEnc).phase = .encrypting ∨ (inPhase .decrypting afterEnc).phase = .decrypting) ∧
    (∀ i ∈ [Instr.enc 1 0, .dec 1 0], i.opcode ≠ 0x6 ∧ i.opcode ≠ 0x7) :=
  ⟨⟨_, rfl, rfl⟩, ⟨_, rfl, rfl⟩, .inl rfl, .inr rfl, by decide⟩
theorem witness_SessionLifeCycle :
    ((∀ i ∈ acceptedOf [.adEnd 0 0, .enc 1 0] (inPhase .initialized afterInit), i.opcode ≠ 0x1 ∧ i.opcode ≠ 0x7) ∧
      ∃ t rs, runCommands [.adEnd 0 0, .enc 1 0] (inPhase .initialized afterInit) = some (t, rs)) ∧
    (∃ t, exec (.init 1 2) State.reset = .next t ∧ (Instr.init 1 2).opcode = 0x1 ∧ t.rsp.status = .ok) ∧
    (∃ t, exec (.final 0 0) (inPhase .absorbedAd afterAdEnd) = .next t ∧ t.phase = .finalized ∧
      (inPhase .absorbedAd afterAdEnd).phase ≠ .finalized) ∧
    (∃ t, exec (.clear 0 0) (inPhase .encrypting afterEnc) = .next t ∧ (Instr.clear 0 0).opcode = 0x7) :=
  ⟨⟨by decide, _, _, rfl⟩, ⟨_, rfl, rfl, rfl⟩, ⟨_, rfl, rfl, by decide⟩, ⟨_, rfl, rfl⟩⟩
/-- One command for each case of R172, with the state it runs in, and both directions of a session. -/
theorem witness_PermutationCallsOfASession :
    (∃ t, exec (.init 1 2) State.reset = .next t ∧ (Instr.init 1 2).opcode = 0x1 ∧ legal (.init 1 2) State.reset.phase = true) ∧
    (∃ t, exec (.final 0 0) (inPhase .absorbedAd afterAdEnd) = .next t ∧ (Instr.final 0 0).opcode = 0x6 ∧
      legal (.final 0 0) (inPhase .absorbedAd afterAdEnd).phase = true) ∧
    (∃ t, exec (.ad 1 0) (inPhase .initialized afterInit) = .next t ∧ (Instr.ad 1 0).opcode = 0x2 ∧
      legal (.ad 1 0) (inPhase .initialized afterInit).phase = true) ∧
    (∃ t, exec (.enc 1 0) (inPhase .absorbedAd afterAdEnd) = .next t ∧ (Instr.enc 1 0).opcode = 0x4) ∧
    (∃ t, exec (.dec 1 0) (inPhase .decrypting afterEnc) = .next t ∧ (Instr.dec 1 0).opcode = 0x5 ∧
      (inPhase .decrypting afterEnc).phase ≠ .absorbedAd ∧ legal (.dec 1 0) (inPhase .decrypting afterEnc).phase = true) ∧
    (∃ t, exec (.adEnd 0 0) (inPhase .initialized afterInit) = .next t ∧ (Instr.adEnd 0 0).opcode = 0x3 ∧
      legal (.adEnd 0 0) (inPhase .initialized afterInit).phase = true) ∧
    (∃ t, exec (.cmd8 0 0) State.reset = .next t ∧ legal (.cmd8 0 0) State.reset.phase = false) ∧
    ((State.reset.phase = .uninit ∨ State.reset.phase = .finalized) ∧
      ∀ dir ∈ [fun m => Instr.enc m 0, fun m => Instr.dec m 0], dir = (fun m => .enc m 0) ∨ dir = (fun m => .dec m 0)) :=
  ⟨⟨_, rfl, rfl, rfl⟩, ⟨_, rfl, rfl, rfl⟩, ⟨_, rfl, rfl, rfl⟩, ⟨_, rfl, rfl⟩, ⟨_, rfl, rfl, by decide, rfl⟩,
   ⟨_, rfl, rfl, rfl⟩, ⟨_, rfl, rfl⟩, .inl rfl, by simp⟩
theorem witness_RunAnswersEveryCommand : (State.reset = State.reset ∨ Ready State.reset) ∧
    (Ready (inPhase .initialized afterInit) ∧
      (∃ t rs, runCommands [.adEnd 0 0, .ad 5 0] (inPhase .initialized afterInit) = some (t, rs)) ∧
      1 < [Instr.adEnd 0 0, .ad 5 0].length) := ⟨.inl rfl, ⟨rfl, rfl, rfl⟩, ⟨_, _, rfl⟩, by decide⟩
theorem witness_SourceOperationsExpand : (State.reset.phase = .uninit ∨ State.reset.phase = .finalized) ∧
    (inPhase .initialized afterInit).phase = .initialized ∧
    ((inPhase .encrypting afterEnc).phase = .absorbedAd ∨ (inPhase .encrypting afterEnc).phase = .encrypting) ∧
    ((inPhase .absorbedAd afterAdEnd).phase = .absorbedAd ∨ (inPhase .absorbedAd afterAdEnd).phase = .decrypting) ∧
    (inPhase .decrypting afterEnc).K = ⟨0x0123456789abcdef, 0xfedcba9876543210⟩ := by decide

theorem witness_ResetValues : State.reset = State.reset ∨ ∃ e, State.reset = resetCore e := .inl rfl
theorem witness_ResetEdgeAbandonsEverything : { offerAd with rst := true }.rst = true := rfl
theorem witness_AcceptedAfterReset : State.reset = State.reset ∨ ∃ e, State.reset = resetCore e := .inl rfl
theorem witness_CommandAcceptance : (offerAd.cmdValid = true ∧ (outputs offerAd.rst (inPhase .initialized afterInit)).cmdReady = true) ∧
    (({ quiet with cmdOp := 3 } : Pins) = { quiet with cmdOp := 3, cmdD0 := 0, cmdD1 := 0 } ∧
      ¬ (quiet.cmdValid = true ∧ (outputs quiet.rst State.reset).cmdReady = true)) ∧
    ¬ (offerAd.cmdValid = true ∧ (outputs offerAd.rst { State.reset with busy := true, left := 2 }).cmdReady = true) := by decide
theorem witness_ClockedCoreRefinesTransaction : Ready (inPhase .initialized afterInit) ∧ offerAd.rst = false ∧
    offerAd.cmdValid = true ∧ (∀ q ∈ List.replicate (Config.lat 0x2 .initialized) quiet, q.rst = false) ∧
    (List.replicate (Config.lat 0x2 .initialized) quiet).length =
      Config.lat offerAd.cmdOp (inPhase .initialized afterInit).phase := by
  refine ⟨⟨rfl, rfl, rfl⟩, rfl, rfl, ?_, List.length_replicate⟩
  intro q hq
  rw [List.eq_of_mem_replicate hq]
  rfl
/-- One edge fewer than the latency, after the accepting edge. -/
theorem witness_NothingVisibleBeforeResponse :
    let ps := List.replicate (Config.latExtra 0x2 .initialized) quiet
    Ready (inPhase .initialized afterInit) ∧ offerAd.rst = false ∧ offerAd.cmdValid = true ∧ (∀ q ∈ ps, q.rst = false) ∧
    ps.length + 1 = Config.lat offerAd.cmdOp (inPhase .initialized afterInit).phase ∧
    ps.length < Config.lat offerAd.cmdOp (inPhase .initialized afterInit).phase := by
  intro ps
  have hl : ps.length = Config.latExtra 0x2 .initialized := List.length_replicate
  refine ⟨⟨rfl, rfl, rfl⟩, rfl, rfl, ?_, ?_, ?_⟩
  · intro q hq
    rw [List.eq_of_mem_replicate hq]
    rfl
  · rw [hl]
    rfl
  · rw [hl]
    exact Nat.lt_succ_self _
theorem witness_ResponseStableUntilTaken : ({ State.reset with rspValid := true }.busy = false ∧
      { State.reset with rspValid := true }.rspValid = true ∧ (∀ q ∈ [quiet, offerAd], q.rst = false ∧ q.rspReady = false)) ∧
    ({ quiet with rspReady := true }.rst = false ∧ { quiet with rspReady := true }.rspReady = true) := by decide
theorem witness_TimingIndependentOfData :
    (∀ q ∈ [(offerAd, { offerAd with cmdD0 := 7 }), (quiet, quiet)],
      q.2 = { q.1 with cmdD0 := q.2.cmdD0, cmdD1 := q.2.cmdD1 }) ∧
    (inPhase .initialized afterInit).phase = (inPhase .initialized vectorT).phase ∧
    (inPhase .initialized afterInit).rsp.status = (inPhase .initialized vectorT).rsp.status ∧
    frameOp (inPhase .initialized afterInit).held = frameOp (inPhase .initialized vectorT).held ∧
    (inPhase .initialized afterInit).S ≠ (inPhase .initialized vectorT).S := by decide
theorem witness_IdleCoreKeepsItsState : State.reset.inputs = [] ∧ Ready (inPhase .encrypting afterEnc) ∧
    (∀ q ∈ [quiet, quiet], q.rst = false ∧ q.cmdValid = false) := ⟨rfl, ⟨rfl, rfl, rfl⟩, by decide⟩
theorem witness_PowerLossNeedsReset :
    (∀ next ∈ [[.command 0], [.take], [.powerLoss], [.edge quiet], [.edge { quiet with rst := true }], [.reset]],
      { State.reset with inputs := .powerLoss :: next }.inputs = .powerLoss :: next) ∧
    quiet.rst = false ∧ { quiet with rst := true }.rst = true := by decide
theorem witness_StepRunsDecodedCommand :
    ((State.reset.withFetchWord 132 0).inputs = [.command 0] ∧ Ready (State.reset.withFetchWord 132 0) ∧
      decodeFrame 0 = .status 0 0 ∧ (Instr.status 0 0).wf = true) ∧
    ({ State.reset with rspValid := true, inputs := [.command 0] }.lost = false ∧
      { State.reset with rspValid := true, inputs := [.command 0] }.rspValid = true) :=
  ⟨⟨rfl, ⟨rfl, rfl, rfl⟩, by decide, rfl⟩, rfl, rfl⟩
/-- An edge, a reset, and a take on a busy core, with no response pending, and with one pending. -/
theorem witness_StepFollowsHostInput :
    ({ State.reset with inputs := [.edge quiet] }.inputs = .edge quiet :: [] ∧
      { State.reset with inputs := [.edge quiet] }.lost = false) ∧
    { State.reset with inputs := [.reset] }.inputs = .reset :: [] ∧
    ({ State.reset with busy := true, left := 2, inputs := [.take] }.lost = false ∧
      { State.reset with busy := true, left := 2, inputs := [.take] }.busy = true) ∧
    ({ State.reset with inputs := [.take] }.lost = false ∧ { State.reset with inputs := [.take] }.rspValid = false) ∧
    ({ State.reset with rspValid := true, inputs := [.take] }.lost = false ∧
      { State.reset with rspValid := true, inputs := [.take] }.busy = false ∧
      { State.reset with rspValid := true, inputs := [.take] }.rspValid = true) := by decide
theorem witness_SubstitutionLayerIsFixed : ∃ t, step State.reset = .next t := ⟨_, rfl⟩
/-- A state with a command offered, one with a command in flight and one edge to go, and one with an error pending. -/
theorem witness_StepKeepsInvariant :
    (Inv (State.reset.withFetchWord 132 0) ∧ ∃ t, step (State.reset.withFetchWord 132 0) = .next t) ∧
    (Inv { inPhase .initialized afterInit with busy := true, left := 1, inputs := [.edge quiet] } ∧
      ∃ t, step { inPhase .initialized afterInit with busy := true, left := 1, inputs := [.edge quiet] } = .next t) ∧
    (Inv { State.reset with err := true, lastErr := .errPhase, rspValid := true, rsp := ⟨.errPhase, 0, 0⟩, inputs := [.take] } ∧
      ∃ t, step { State.reset with err := true, lastErr := .errPhase, rspValid := true, rsp := ⟨.errPhase, 0, 0⟩, inputs := [.take] } =
        .next t) :=
  ⟨⟨by decide, _, rfl⟩, ⟨by decide, _, rfl⟩, by decide, _, rfl⟩

end Sys2Proof.Tests
end

/-! The substitution layer of an instance is a configuration (40_permutation.md R81): every operation of the port leaves
the field `subst` as it is, and so does a step. -/

namespace Sys2Proof.Machine

@[simp] theorem acceptCommand_subst (p : Pins) (s : State) : (acceptCommand p s).subst = s.subst := rfl
@[simp] theorem runOn_subst (s : State) : (runOn s).subst = s.subst := rfl

@[simp] theorem offerTake_subst (s : State) : (offerTake s).subst = s.subst := by
  unfold offerTake
  split
  · exact takeResponse_subst s
  · rfl

theorem exec_keeps_subst {i : Instr} {s t : State} (h : exec i s = .next t) : t.subst = s.subst := by
  obtain ⟨-, hsubst, -⟩ := exec_frame h
  exact hsubst

theorem offerCommand_keeps_subst {f : Frame} {s t : State} (h : offerCommand f s = .next t) : t.subst = s.subst := by
  unfold offerCommand at h
  split at h
  · exact exec_keeps_subst h
  · cases h; rfl

theorem clockEdge_keeps_subst {p : Pins} {s t : State} (h : clockEdge p s = .next t) : t.subst = s.subst := by
  obtain ⟨-, e⟩ | ⟨-, -, -, e⟩ | ⟨-, -, -, e⟩ | ⟨-, -, -, -, e⟩ | ⟨-, -, -, -, e⟩ | ⟨-, -, -, -, e⟩ |
    ⟨-, -, -, -, e⟩ := clockEdge_cases p s <;> rw [e] at h
  case inr.inl => simpa using exec_keeps_subst h
  all_goals cases h; simp

/-- R8, R81 (log entry 4): reset and a loss of power included. -/
theorem hostInput_keeps_subst {e : HostInput} {s t : State} (h : hostInput e s = .next t) : t.subst = s.subst := by
  cases e with
  | reset => cases h; simp
  | powerLoss => cases h; simp
  | edge p =>
    simp only [hostInput] at h
    split at h
    · cases h
    · exact clockEdge_keeps_subst h
  | command f =>
    simp only [hostInput] at h
    split at h
    · cases h
    · exact offerCommand_keeps_subst h
  | take =>
    simp only [hostInput] at h
    split at h
    · cases h
    · cases h; simp

end Sys2Proof.Machine

namespace Sys2Proof.Proofs
open Sys2Proof.Machine

/-- Settles O58: with no input the state stays; with one, no host input changes the field. -/
theorem substitutionLayerIsFixed : Obligations.SubstitutionLayerIsFixed := by
  intro s t h
  unfold step at h
  split at h
  · cases h; rfl
  · simpa using hostInput_keeps_subst h

end Sys2Proof.Proofs

/-! What each body of a command makes of the registers the host's session depends on, field by field (10_state.md R20 to
R28; 41_session.md R100 to R118; 42_control.md R130, R132). -/

namespace Sys2Proof.Machine

variable (d0 d1 : Word) (s : State)

/-- R30, R109, R112: the permutation state a message block meets, after `P6` where the message has already begun in this
direction. -/
def messageState (dir : Phase) (s : State) : Sponge :=
  if s.phase = dir then permute s.subst .short s.S else s.S

theorem messageState_of_first {dir : Phase} {s : State} (h : s.phase ≠ dir) : messageState dir s = s.S := if_neg h

/-- R109, R112: a state with no message begun in this direction is the one its block meets, its rate word written back. -/
theorem eq_setRate_messageState {dir : Phase} {s : State} (h : s.phase ≠ dir) :
    s.S = (messageState dir s).setRate s.S.s0 := by
  rw [messageState_of_first h]
  rfl

@[simp] theorem statusBody_S : (statusBody s).S = s.S := rfl
@[simp] theorem statusBody_K : (statusBody s).K = s.K := rfl
@[simp] theorem statusBody_phase : (statusBody s).phase = s.phase := rfl
@[simp] theorem statusBody_err : (statusBody s).err = s.err := rfl
@[simp] theorem statusBody_lastErr : (statusBody s).lastErr = s.lastErr := rfl
@[simp] theorem statusBody_rsp : (statusBody s).rsp = ⟨.ok, statusWord s, 0⟩ := rfl

@[simp] theorem initBody_S : (initBody d0 d1 s).S = (permute s.subst .long .zero).xorTail ⟨d0, d1⟩ := rfl
@[simp] theorem initBody_K : (initBody d0 d1 s).K = ⟨d0, d1⟩ := rfl
@[simp] theorem initBody_phase : (initBody d0 d1 s).phase = .initialized := rfl
@[simp] theorem initBody_err : (initBody d0 d1 s).err = s.err := rfl
@[simp] theorem initBody_lastErr : (initBody d0 d1 s).lastErr = s.lastErr := rfl
@[simp] theorem initBody_rsp : (initBody d0 d1 s).rsp = ⟨.ok, 0, 0⟩ := rfl

@[simp] theorem adBody_S : (adBody d0 s).S = permute s.subst .short (s.S.xorRate d0) := rfl
@[simp] theorem adBody_K : (adBody d0 s).K = s.K := rfl
@[simp] theorem adBody_phase : (adBody d0 s).phase = s.phase := rfl
@[simp] theorem adBody_err : (adBody d0 s).err = s.err := rfl
@[simp] theorem adBody_lastErr : (adBody d0 s).lastErr = s.lastErr := rfl
@[simp] theorem adBody_rsp : (adBody d0 s).rsp = ⟨.ok, 0, 0⟩ := rfl

@[simp] theorem adEndBody_S : (adEndBody s).S = s.S.flipDomain := rfl
@[simp] theorem adEndBody_K : (adEndBody s).K = s.K := rfl
@[simp] theorem adEndBody_phase : (adEndBody s).phase = .absorbedAd := rfl
@[simp] theorem adEndBody_err : (adEndBody s).err = s.err := rfl
@[simp] theorem adEndBody_lastErr : (adEndBody s).lastErr = s.lastErr := rfl
@[simp] theorem adEndBody_rsp : (adEndBody s).rsp = ⟨.ok, 0, 0⟩ := rfl

/-- R109: what ENC does to the state, over the state its block meets. -/
theorem encBody_eq : encBody d0 s =
    { s with
      S := (messageState .encrypting s).setRate (d0 ^^^ (messageState .encrypting s).s0)
      phase := .encrypting
      rspValid := true
      rsp := ⟨.ok, d0 ^^^ (messageState .encrypting s).s0, 0⟩
      rsel := if s.phase = .encrypting then .short else s.rsel } := by
  unfold encBody messageState
  split <;> rfl

@[simp] theorem encBody_S : (encBody d0 s).S =
    (messageState .encrypting s).setRate (d0 ^^^ (messageState .encrypting s).s0) := by rw [encBody_eq]
@[simp] theorem encBody_K : (encBody d0 s).K = s.K := by rw [encBody_eq]
@[simp] theorem encBody_phase : (encBody d0 s).phase = .encrypting := by rw [encBody_eq]
@[simp] theorem encBody_err : (encBody d0 s).err = s.err := by rw [encBody_eq]
@[simp] theorem encBody_lastErr : (encBody d0 s).lastErr = s.lastErr := by rw [encBody_eq]
@[simp] theorem encBody_rsp : (encBody d0 s).rsp = ⟨.ok, d0 ^^^ (messageState .encrypting s).s0, 0⟩ := by
  rw [encBody_eq]

/-- R112: what DEC does to the state, over the state its block meets. -/
theorem decBody_eq : decBody d0 s =
    { s with
      S := (messageState .decrypting s).setRate d0
      phase := .decrypting
      rspValid := true
      rsp := ⟨.ok, d0 ^^^ (messageState .decrypting s).s0, 0⟩
      rsel := if s.phase = .decrypting then .short else s.rsel } := by
  unfold decBody messageState
  split <;> rfl

@[simp] theorem decBody_S : (decBody d0 s).S = (messageState .decrypting s).setRate d0 := by rw [decBody_eq]
@[simp] theorem decBody_K : (decBody d0 s).K = s.K := by rw [decBody_eq]
@[simp] theorem decBody_phase : (decBody d0 s).phase = .decrypting := by rw [decBody_eq]
@[simp] theorem decBody_err : (decBody d0 s).err = s.err := by rw [decBody_eq]
@[simp] theorem decBody_lastErr : (decBody d0 s).lastErr = s.lastErr := by rw [decBody_eq]
@[simp] theorem decBody_rsp : (decBody d0 s).rsp = ⟨.ok, d0 ^^^ (messageState .decrypting s).s0, 0⟩ := by
  rw [decBody_eq]

@[simp] theorem finalBody_S : (finalBody s).S = (permute s.subst .long (s.S.xorMid s.K)).xorTail s.K := rfl
@[simp] theorem finalBody_K : (finalBody s).K = s.K := rfl
@[simp] theorem finalBody_phase : (finalBody s).phase = .finalized := rfl
@[simp] theorem finalBody_err : (finalBody s).err = s.err := rfl
@[simp] theorem finalBody_lastErr : (finalBody s).lastErr = s.lastErr := rfl
theorem finalBody_rsp : (finalBody s).rsp = ⟨.ok, (finalBody s).S.s3, (finalBody s).S.s4⟩ := rfl

@[simp] theorem clearBody_S : (clearBody s).S = .zero := rfl
@[simp] theorem clearBody_K : (clearBody s).K = .zero := rfl
@[simp] theorem clearBody_phase : (clearBody s).phase = .uninit := rfl
@[simp] theorem clearBody_err : (clearBody s).err = false := rfl
@[simp] theorem clearBody_lastErr : (clearBody s).lastErr = .ok := rfl
@[simp] theorem clearBody_rsp : (clearBody s).rsp = ⟨.ok, 0, 0⟩ := rfl

end Sys2Proof.Machine

/-! What `exec` makes of each register, for every command: the error registers and the response (R27, R61, R143), the key
(R23), the phase and the permutation state. -/

namespace Sys2Proof.Machine

/-- R56: the command of an opcode. -/
theorem exists_instrOf_of_opcode {i : Instr} {op : BitVec 4} (h : i.opcode = op) : ∃ d0 d1, i = instrOf op d0 d1 :=
  ⟨i.d0, i.d1, by rw [← h, Laws.instrOf_opcode]⟩

theorem exec_of_legal {i : Instr} {s : State} (hl : legal i s.phase = true) : exec i s = .next (bodyOf i s) := by
  rw [exec_eq, if_pos hl]

/-- R140: an accepted command answers OK. -/
theorem bodyOf_status {i : Instr} {s : State} (h : legal i s.phase = true) : (bodyOf i s).rsp.status = .ok := by
  cases i <;> simp [legal] at h <;> simp [bodyOf, finalBody_rsp]

/-- R148: an accepted command other than CLEAR leaves the error registers alone. -/
theorem bodyOf_keeps_errors {i : Instr} (h : i.opcode ≠ 0x7) (s : State) :
    (bodyOf i s).err = s.err ∧ (bodyOf i s).lastErr = s.lastErr := by
  cases i <;> simp [bodyOf, Instr.opcode] at h ⊢

/-- R140 to R142: the status of the response, for every command and state. -/
theorem exec_status_eq {i : Instr} {s t : State} (h : exec i s = .next t) :
    t.rsp.status = if legal i s.phase then .ok else if reserved i then .errInvalid else .errPhase := by
  obtain ⟨hl, rfl⟩ | ⟨hl, rfl⟩ := exec_cases h
  · simp [hl, bodyOf_status hl]
  · simp [hl]

theorem exec_status_ok_iff {i : Instr} {s t : State} (h : exec i s = .next t) :
    t.rsp.status = .ok ↔ legal i s.phase = true := by
  rw [exec_status_eq h]
  split_ifs with hl <;> simp [hl]

/-- R143: an error response carries no data, and ERR and LAST_ERR record it. -/
theorem exec_records_error {i : Instr} {s t : State} (h : exec i s = .next t) (he : t.rsp.status ≠ .ok) :
    t.err = true ∧ t.lastErr = t.rsp.status ∧ t.rsp.r0 = 0 ∧ t.rsp.r1 = 0 := by
  obtain ⟨hl, rfl⟩ | ⟨-, rfl⟩ := exec_cases h
  · exact absurd (bodyOf_status hl) he
  · simp

/-- R27, R148: only CLEAR among the accepted commands writes ERR and LAST_ERR. -/
theorem exec_keeps_errors {i : Instr} {s t : State} (h : exec i s = .next t) (hok : t.rsp.status = .ok)
    (hi : i.opcode ≠ 0x7) : t.err = s.err ∧ t.lastErr = s.lastErr := by
  cases (exec_of_legal ((exec_status_ok_iff h).1 hok)).symm.trans h
  exact bodyOf_keeps_errors hi s

/-- R132: CLEAR is its body in every phase. -/
theorem exec_of_opcode_clear {i : Instr} (h : i.opcode = 0x7) (s : State) : exec i s = .next (clearBody s) := by
  obtain ⟨d0, d1, rfl⟩ : ∃ d0 d1, i = .clear d0 d1 := exists_instrOf_of_opcode h
  rfl

/-- R23, R102: the key register after a command. -/
theorem exec_K {i : Instr} {s t : State} (h : exec i s = .next t) :
    t.K = if i.opcode = 0x1 ∧ legal i s.phase = true then ⟨i.d0, i.d1⟩ else if i.opcode = 0x7 then .zero else s.K := by
  obtain ⟨hl, rfl⟩ | ⟨hl, rfl⟩ := exec_cases h
  · cases i <;> simp [legal] at hl <;> simp [bodyOf, Instr.opcode, Instr.d0, Instr.d1, legal, hl]
  · have hclear : i.opcode ≠ 0x7 := by cases i <;> simp [Instr.opcode, legal] at hl ⊢
    have hinit : ¬ (i.opcode = 0x1 ∧ legal i s.phase = true) := by simp [hl]
    rw [reject_K, if_neg hinit, if_neg hclear]

/-- R23, R100, R115: with another key in the register, the body of a command other than FINAL does the same to everything
but the register. -/
theorem bodyOf_withKey {i : Instr} (h : i.opcode ≠ 0x6) (s : State) (k : Key) :
    bodyOf i { s with K := k } = { bodyOf i s with K := (bodyOf i { s with K := k }).K } := by
  cases i <;> simp [Instr.opcode] at h
  case enc d0 _ => simp only [bodyOf, encBody_eq]; rfl
  case dec d0 _ => simp only [bodyOf, decBody_eq]; rfl
  all_goals rfl

/-- R23: so a command other than FINAL leaves what it leaves, whatever key the register held, but for the register. -/
theorem exec_withKey {i : Instr} {s t : State} (h : exec i s = .next t) (hi : i.opcode ≠ 0x6) (k : Key) :
    ∃ k', exec i { s with K := k } = .next { t with K := k' } := by
  rw [exec_eq]
  obtain ⟨hl, rfl⟩ | ⟨hl, rfl⟩ := exec_cases h
  · exact ⟨_, by rw [if_pos hl, bodyOf_withKey hi]⟩
  · exact ⟨k, by rw [if_neg (by simp [hl])]; rfl⟩

/-- R121: the phase an ENC (0x4) or a DEC (0x5) goes on in. -/
def directionOf (op : BitVec 4) : Phase := if op = 0x4 then .encrypting else .decrypting

/-- R22, R109, R112: after an ENC or a DEC, accepted or not, the state is the one its block met but for the rate word. -/
theorem exec_message_S {i : Instr} {s t : State} (h : exec i s = .next t) (hi : i.opcode = 0x4 ∨ i.opcode = 0x5) :
    ∃ c, t.S = (messageState (directionOf i.opcode) s).setRate c := by
  obtain hi | hi := hi
  · obtain ⟨d0, d1, rfl⟩ : ∃ d0 d1, i = .enc d0 d1 := exists_instrOf_of_opcode hi
    obtain ⟨-, rfl⟩ | ⟨hl, rfl⟩ := exec_cases h
    · exact ⟨_, encBody_S d0 s⟩
    · have hfirst : s.phase ≠ .encrypting := fun hp => by simp [legal, hp] at hl
      exact ⟨_, eq_setRate_messageState hfirst⟩
  · obtain ⟨d0, d1, rfl⟩ : ∃ d0 d1, i = .dec d0 d1 := exists_instrOf_of_opcode hi
    obtain ⟨-, rfl⟩ | ⟨hl, rfl⟩ := exec_cases h
    · exact ⟨_, decBody_S d0 s⟩
    · have hfirst : s.phase ≠ .decrypting := fun hp => by simp [legal, hp] at hl
      exact ⟨_, eq_setRate_messageState hfirst⟩

/-- R106: AD_END flips bit 0 of word 4, so the bits above it stay. -/
theorem xor_one_ushiftRight_one (w : Word) : (w ^^^ 1) >>> 1 = w >>> 1 := by
  simp [BitVec.ushiftRight_xor_distrib]

/-- R117: in FINALIZED every command but INIT and CLEAR leaves the phase and the permutation state, and only STATUS returns
data. -/
theorem exec_finalized {i : Instr} {s t : State} (hp : s.phase = .finalized) (hinit : i.opcode ≠ 0x1)
    (hclear : i.opcode ≠ 0x7) (h : exec i s = .next t) :
    t.phase = .finalized ∧ t.S = s.S ∧ (i.opcode ≠ 0x0 → t.rsp.r0 = 0 ∧ t.rsp.r1 = 0) := by
  obtain ⟨hl, rfl⟩ | ⟨hl, rfl⟩ := exec_cases h
  · obtain ⟨d0, d1, rfl⟩ : ∃ d0 d1, i = .status d0 d1 := by
      cases i <;> simp [legal, hp, Instr.opcode] at hl hinit hclear ⊢
    exact ⟨hp, rfl, fun hstatus => absurd rfl hstatus⟩
  · exact ⟨hp, rfl, fun _ => ⟨rfl, rfl⟩⟩

/-- R34, R117: and so does a run of such commands. -/
theorem runCommands_finalized {is : List Instr} {s t : State} {rs : List Response} (hp : s.phase = .finalized)
    (his : ∀ i ∈ is, i.opcode ≠ 0x1 ∧ i.opcode ≠ 0x7) (h : runCommands is s = some (t, rs)) :
    t.phase = .finalized ∧ t.S = s.S ∧ ∀ p ∈ is.zip rs, p.1.opcode ≠ 0x0 → p.2.r0 = 0 ∧ p.2.r1 = 0 := by
  induction is generalizing s rs with
  | nil =>
    obtain ⟨rfl, rfl⟩ : s = t ∧ [] = rs := by simpa [runCommands] using h
    exact ⟨hp, rfl, by simp⟩
  | cons i is ih =>
    obtain ⟨u, qs, hexec, hrest, rfl⟩ := runCommands_cons_inv h
    obtain ⟨⟨hinit, hclear⟩, his⟩ := List.forall_mem_cons.1 his
    obtain ⟨hup, huS, hzero⟩ := exec_finalized hp hinit hclear hexec
    obtain ⟨htp, htS, hzeros⟩ := ih (s := takeResponse u) hup his hrest
    exact ⟨htp, htS.trans huS, List.forall_mem_cons.2 ⟨hzero, hzeros⟩⟩

end Sys2Proof.Machine

/-! The bits of the status word (R27) and of a response (R61), and the rejection as the statements write it (R143). -/

namespace Sys2Proof.Machine
open Sys2Proof.Safety

/-- R27: the fields of the status word read back. -/
theorem statusWord_fields (s : State) :
    (statusWord s).extractLsb' 0 3 = s.phase.code ∧ (statusWord s).getLsbD 3 = s.err ∧
      (statusWord s).extractLsb' 4 2 = s.lastErr.code ∧ (statusWord s).extractLsb' 6 58 = 0 := by
  unfold statusWord
  cases s.lastErr <;> cases s.err <;> cases s.phase <;> decide

/-- R27, R160: reset clears both error fields and the phase. -/
theorem statusWord_resetCore (s : State) : statusWord (resetCore s) = 0 := by
  simp [statusWord, Regs.reset, Status.code, Phase.code]

/-- R61: the fields of a response's serialisation read back. -/
theorem Response.encode_fields (r : Response) :
    r.encode.extractLsb' 128 2 = r.status.code ∧ r.encode.extractLsb' 64 64 = r.r1 ∧
      r.encode.extractLsb' 0 64 = r.r0 := by
  unfold Response.encode
  refine ⟨?_, ?_, BitVec.extractLsb'_append_eq_right⟩
  · rw [BitVec.extractLsb'_append_eq_of_le (by decide), BitVec.extractLsb'_append_eq_left]
  · rw [BitVec.extractLsb'_append_eq_of_le (by decide), BitVec.extractLsb'_append_eq_right]

/-- R143: the rejection the statements write out, for every command of a defined opcode. -/
theorem exec_eq_rejected {i : Instr} {s : State} (hl : legal i s.phase = false) (hr : reserved i = false) :
    exec i s = .next (rejected .errPhase s) := by
  simp [exec_eq, hl, hr, reject_eq, rejected]

end Sys2Proof.Machine

/-! The invariant of a defined state: every operation of the port keeps it, and so does every input of the host (20_memory.md
R45, R46; 70_reset_and_hazards.md R160; 60_exceptions.md R143, R156). -/

namespace Sys2Proof.Machine
open Sys2Proof.Safety

theorem Rounds.count_pos (r : Rounds) : 0 < r.count := by cases r <;> decide

/-- R29: the round index shown stays below the round count of the select of the command in flight. -/
theorem rndShown_lt_count {i : Instr} {ph : Phase} {r : Rounds} (h : permCall i ph = none ∨ permCall i ph = some r)
    (n : Nat) : (rndShown i ph n).toNat < r.count := by
  obtain h | h := h
  · have : rndShown i ph n = 0 := by simp [rndShown, roundsRun, h]
    rw [this]
    exact r.count_pos
  · cases r <;> simp [rndShown, roundsRun, h, Rounds.count] <;> omega

/-- R62: the select a command drives is the one of its permutation call. -/
theorem permCall_eq_rselDriven (i : Instr) (s : State) :
    permCall i s.phase = none ∨ permCall i s.phase = some (rselDriven i s) := by
  unfold rselDriven
  cases permCall i s.phase <;> simp

/-- R121: a command ends in UNINIT only as CLEAR, or where it leaves a state in UNINIT as it is. -/
theorem exec_uninit {i : Instr} {s t : State} (h : exec i s = .next t) (ht : t.phase = .uninit) :
    (t.S = .zero ∧ t.K = .zero) ∨ (s.phase = .uninit ∧ t.S = s.S ∧ t.K = s.K) := by
  obtain ⟨hl, rfl⟩ | ⟨hl, rfl⟩ := exec_cases h
  · cases i <;> simp_all [legal, bodyOf]
  · exact .inr ⟨ht, rfl, rfl⟩

/-- R27: ERR is set exactly when LAST_ERR is, after a command as before it. -/
theorem exec_errors_agree {i : Instr} {s t : State} (h : exec i s = .next t) (hs : s.err = false ↔ s.lastErr = .ok) :
    t.err = false ↔ t.lastErr = .ok := by
  by_cases hok : t.rsp.status = .ok
  · by_cases hi : i.opcode = 0x7
    · cases (exec_of_opcode_clear hi s).symm.trans h
      simp
    · obtain ⟨herr, hlast⟩ := exec_keeps_errors h hok hi
      rw [herr, hlast, hs]
  · obtain ⟨herr, hlast, -, -⟩ := exec_records_error h hok
    simp [herr, hlast, hok]

/-- A command that runs on an idle core keeps the invariant. -/
theorem exec_keeps_inv {i : Instr} {s t : State} (hs : Inv s) (hidle : s.busy = false) (h : exec i s = .next t) :
    Inv t := by
  obtain ⟨-, -, -, hlost, hbusy, hrnd, -, -, -⟩ := exec_frame h
  intro hdefined
  obtain ⟨-, hrnd0, -, herr, -, huninit⟩ := hs (hlost ▸ hdefined)
  have hrndt : t.rnd = 0 := hrnd.trans (hrnd0 hidle)
  refine ⟨fun hb => ?_, fun _ => hrndt, ?_, exec_errors_agree h herr, fun _ he => ?_, fun hp => ?_⟩
  · simp [hbusy, hidle] at hb
  · rw [hrndt]
    exact t.rsel.count_pos
  · exact (exec_records_error h he).2
  · obtain hzero | ⟨hsp, hS, hK⟩ := exec_uninit h hp
    · exact hzero
    · rw [hS, hK]
      exact huninit hsp

theorem inv_resetCore (s : State) : Inv (resetCore s) := by
  intro _
  simp [Regs.reset, Rounds.count, Sponge.zero, Key.zero]

theorem inv_losePower (s : State) : Inv (losePower s) := by
  intro h
  simp at h

theorem takeResponse_keeps_inv {s : State} (hs : Inv s) (hidle : s.busy = false) : Inv (takeResponse s) := by
  intro hdefined
  obtain ⟨-, hrnd0, hrnd, herr, -, huninit⟩ := hs hdefined
  refine ⟨fun hb => ?_, hrnd0, hrnd, herr, fun hv => ?_, huninit⟩
  · simp [hidle] at hb
  · simp at hv

/-- R45 (3): the edge of the response, before the command takes effect. -/
theorem idleEngine_keeps_inv {s : State} (hs : Inv s) : Inv (idleEngine s) := by
  intro hdefined
  obtain ⟨-, -, -, herr, hrsp, huninit⟩ := hs hdefined
  refine ⟨fun hb => ?_, fun _ => rfl, s.rsel.count_pos, herr, hrsp, huninit⟩
  simp at hb

theorem runOn_keeps_inv {s : State} (hs : Inv s) (hbusy : s.busy = true) (hleft : 1 < s.left) : Inv (runOn s) := by
  intro hdefined
  obtain ⟨hflight, -, -, herr, hrsp, huninit⟩ := hs hdefined
  obtain ⟨hv, -, hcall⟩ := hflight hbusy
  refine ⟨fun _ => ⟨hv, Nat.le_sub_one_of_lt hleft, hcall⟩, fun hb => ?_, rndShown_lt_count hcall _, herr, hrsp, huninit⟩
  exact absurd (hbusy.symm.trans hb) (by decide)

theorem acceptCommand_keeps_inv {s : State} (hs : Inv s) (hv : s.rspValid = false) (p : Pins) :
    Inv (acceptCommand p s) := by
  intro hdefined
  obtain ⟨-, -, -, herr, hrsp, huninit⟩ := hs hdefined
  have hcall := permCall_eq_rselDriven (instrOf p.cmdOp p.cmdD0 p.cmdD1) s
  refine ⟨fun _ => ⟨hv, Nat.succ_pos _, ?_⟩, fun hb => ?_, rndShown_lt_count hcall _, herr, hrsp, huninit⟩
  · simpa only [acceptCommand, Laws.decodeFrame_frameOf] using hcall
  · simp [acceptCommand] at hb

theorem clockEdge_keeps_inv {p : Pins} {s t : State} (hs : Inv s) (h : clockEdge p s = .next t) : Inv t := by
  obtain ⟨-, e⟩ | ⟨-, -, -, e⟩ | ⟨-, hbusy, hleft, e⟩ | ⟨-, hidle, -, -, e⟩ | ⟨-, -, -, -, e⟩ | ⟨-, -, hv, -, e⟩ |
    ⟨-, -, -, -, e⟩ := clockEdge_cases p s <;> rw [e] at h
  case inr.inl => exact exec_keeps_inv (idleEngine_keeps_inv hs) rfl h
  all_goals cases h
  · exact inv_resetCore s
  · exact runOn_keeps_inv hs hbusy hleft
  · exact takeResponse_keeps_inv hs hidle
  · exact hs
  · exact acceptCommand_keeps_inv hs hv p
  · exact hs

theorem offerCommand_keeps_inv {f : Frame} {s t : State} (hs : Inv s) (h : offerCommand f s = .next t) : Inv t := by
  unfold offerCommand at h
  split at h
  case isTrue hready =>
    obtain ⟨hidle, -⟩ : s.busy = false ∧ s.rspValid = false := by simpa [cmdReady] using hready
    exact exec_keeps_inv hs hidle h
  case isFalse => cases h; exact hs

theorem offerTake_keeps_inv {s : State} (hs : Inv s) : Inv (offerTake s) := by
  unfold offerTake
  split
  case isTrue hpending =>
    obtain ⟨-, hidle⟩ : s.rspValid = true ∧ s.busy = false := by simpa using hpending
    exact takeResponse_keeps_inv hs hidle
  case isFalse => exact hs

/-- R45, R156: reset and a loss of power included. -/
theorem hostInput_keeps_inv {e : HostInput} {s t : State} (hs : Inv s) (h : hostInput e s = .next t) : Inv t := by
  cases e with
  | reset => cases h; exact inv_resetCore s
  | powerLoss => cases h; exact inv_losePower s
  | edge p =>
    simp only [hostInput] at h
    split at h
    · cases h
    · exact clockEdge_keeps_inv hs h
  | command f =>
    simp only [hostInput] at h
    split at h
    · cases h
    · exact offerCommand_keeps_inv hs h
  | take =>
    simp only [hostInput] at h
    split at h
    · cases h
    · cases h; exact offerTake_keeps_inv hs

end Sys2Proof.Machine

/-! The statements about the state and its writers (10_state.md). -/

namespace Sys2Proof.Proofs
open Sys2Proof.Machine Sys2Proof.Safety

/-- Settles O59: with no input the state stays; with one, every host input keeps the invariant. -/
theorem stepKeepsInvariant : Obligations.StepKeepsInvariant := by
  intro s t hs h
  unfold step at h
  split at h
  · cases h; exact hs
  next e rest _ => exact hostInput_keeps_inv (s := { s with inputs := rest }) hs h

/-- Settles O27: the fields of the two words read back, and the status and the error registers as `exec` leaves them. -/
theorem statusWordLayout : Obligations.StatusWordLayout := by
  refine ⟨fun d0 d1 s => ⟨_, rfl, statusWord_fields s⟩, fun i s t h => ⟨fun he => ?_, exec_keeps_errors h, fun hi => ?_⟩,
    fun s => ⟨rfl, rfl, statusWord_resetCore s⟩, fun r => ?_, fun i s t h => ?_⟩
  · obtain ⟨herr, hlast, -, -⟩ := exec_records_error h he
    exact ⟨herr, hlast⟩
  · cases (exec_of_opcode_clear hi s).symm.trans h
    exact ⟨rfl, rfl⟩
  · obtain ⟨hstatus, hr1, hr0⟩ := r.encode_fields
    refine ⟨hstatus, hr1, hr0, ?_⟩
    rw [hstatus]
    cases r.status <;> decide
  · obtain ⟨hstatus, -, -⟩ := t.rsp.encode_fields
    rw [hstatus, exec_status_eq h]
    cases hl : legal i s.phase with
    | true => simp [reserved_of_legal hl, Status.code]
    | false => cases reserved i <;> simp [Status.code]

/-- Settles O28: each clause is one case of `exec_K`. -/
theorem keyWriters : Obligations.KeyWriters := by
  intro i s t h
  have hK := exec_K h
  refine ⟨fun hi hl => ?_, fun hi => ?_, fun hinit hclear => ?_, rfl⟩
  · rw [hK, if_pos ⟨hi, hl⟩]
  · have hinit : ¬ (i.opcode = 0x1 ∧ legal i s.phase = true) := by simp [hi]
    rw [hK, if_neg hinit, if_pos hi]
    rfl
  · rw [hK, if_neg hinit, if_neg hclear]

/-- Settles O29: the two runs differ in the key register, which `exec_K` gives for each; FINAL answers by its body or is
rejected. -/
theorem keyReadByFinalOnly : Obligations.KeyReadByFinalOnly := by
  refine ⟨fun i s t k hi h => ?_, fun d0 d1 s t h => ?_⟩
  · obtain ⟨k', hu⟩ := exec_withKey h hi k
    refine ⟨_, hu, rfl, rfl, ?_⟩
    have hK' := exec_K hu
    dsimp only at hK' ⊢
    rw [exec_K h, hK']
    split_ifs
    · exact .inl rfl
    · exact .inl rfl
    · exact .inr ⟨rfl, rfl⟩
  · obtain ⟨hl, rfl⟩ | ⟨hl, rfl⟩ := exec_cases h
    · rw [if_pos hl]
      exact finalBody_rsp s
    · simp [hl, reserved]

/-- Settles O31: command by command; the block of an ENC or DEC is written to the rate word of `messageState`, which does
not depend on it. -/
theorem stateWordWriters : Obligations.StateWordWriters := by
  intro i s t h
  refine ⟨fun hl => ?_, fun hi => ?_, fun hi => ?_, fun hi hp => ?_, fun hi => ?_, fun j u hij hi hu => ?_⟩
  · obtain ⟨hl', -⟩ | ⟨-, rfl⟩ := exec_cases h
    · simp [hl] at hl'
    · rfl
  · obtain ⟨d0, d1, rfl⟩ : ∃ d0 d1, i = .status d0 d1 := exists_instrOf_of_opcode hi
    cases h
    rfl
  · obtain ⟨d0, d1, rfl⟩ : ∃ d0 d1, i = .adEnd d0 d1 := exists_instrOf_of_opcode hi
    obtain ⟨-, rfl⟩ | ⟨-, rfl⟩ := exec_cases h
    · exact ⟨rfl, rfl, rfl, rfl, xor_one_ushiftRight_one _⟩
    · exact ⟨rfl, rfl, rfl, rfl, rfl⟩
  · obtain ⟨c, hS⟩ := exec_message_S h hi
    have hfirst : s.phase ≠ directionOf i.opcode := by
      unfold directionOf
      rw [hp]
      split <;> decide
    rw [hS, messageState_of_first hfirst]
    exact ⟨rfl, rfl, rfl, rfl⟩
  · cases (exec_of_opcode_clear hi s).symm.trans h
    rfl
  · obtain ⟨c, hS⟩ := exec_message_S h hi
    obtain ⟨c', hS'⟩ := exec_message_S hu (hij ▸ hi)
    rw [hS, hS', hij]
    exact ⟨rfl, rfl, rfl, rfl⟩

/-- Settles O33: by induction on the run, and command by command in FINALIZED. -/
theorem tagStaysUntilNewSession : Obligations.TagStaysUntilNewSession := by
  refine ⟨fun d0 d1 s t h hl => ?_, fun is s t rs => runCommands_finalized,
    fun d0 d1 s hp => ⟨fun i hi => ?_, ?_, ?_, rfl, ?_⟩⟩
  · cases (exec_of_legal hl).symm.trans h
    exact ⟨rfl, finalBody_rsp s⟩
  · obtain ⟨hl, hr⟩ : legal i s.phase = false ∧ reserved i = false := by
      rw [hp]
      simp only [List.mem_cons, List.not_mem_nil, or_false] at hi
      rcases hi with rfl | rfl | rfl | rfl | rfl <;> exact ⟨rfl, rfl⟩
    exact exec_eq_rejected hl hr
  · exact ⟨_, rfl, rfl, hp⟩
  · exact ⟨_, rfl, rfl, rfl, rfl⟩
  · have hl : legal (.init d0 d1) s.phase = true := by rw [hp]; rfl
    exact ⟨_, exec_of_legal hl, rfl, rfl, rfl⟩

/-- Settles O46: reset puts `Regs.reset` in the registers, and the table has 16 entries. -/
theorem resetValues : Obligations.ResetValues := by
  refine ⟨?_, by decide⟩
  rintro s (rfl | ⟨e, rfl⟩) <;> exact ⟨rfl, rfl, rfl, rfl, rfl, rfl, rfl, rfl, rfl, rfl, rfl, rfl⟩

/-- Settles O60: the reset state is a reset core. -/
theorem resetMeetsInvariant : Obligations.ResetMeetsInvariant := inv_resetCore State.reset

end Sys2Proof.Proofs

/-! The command port, case by case: what each clock edge does, when a command offered or a response taken has an effect,
and what a step does with each host input (20_memory.md R44 to R47; 70_reset_and_hazards.md R160, R166). -/

namespace Sys2Proof.Machine

/-- R45 (2): `cmd_ready` is the conjunction of its three causes. -/
theorem cmdReady_iff {rst : Bool} {s : State} :
    cmdReady rst s = true ↔ rst = false ∧ s.busy = false ∧ s.rspValid = false := by
  simp [cmdReady, and_assoc]

section
variable {p : Pins} {s : State}

/-- R45 (1). -/
theorem clockEdge_accepts (hready : cmdReady p.rst s = true) (hvalid : p.cmdValid = true) :
    clockEdge p s = .next (acceptCommand p s) := by
  obtain ⟨hrst, hidle, hv⟩ := cmdReady_iff.1 hready
  simp [clockEdge, hrst, hidle, hv, hvalid]

/-- R45 (3). -/
theorem clockEdge_runs_on (hrst : p.rst = false) (hbusy : s.busy = true) (hleft : 1 < s.left) :
    clockEdge p s = .next (runOn s) := by
  simp [clockEdge, hrst, hbusy, Nat.not_le.2 hleft]

/-- R45 (3), R47. -/
theorem clockEdge_responds (hrst : p.rst = false) (hbusy : s.busy = true) (hleft : s.left ≤ 1) :
    clockEdge p s = exec (decodeFrame s.held) (idleEngine s) := by
  simp [clockEdge, hrst, hbusy, hleft]

/-- R45 (4). -/
theorem clockEdge_takes (hrst : p.rst = false) (hidle : s.busy = false) (hv : s.rspValid = true)
    (htake : p.rspReady = true) : clockEdge p s = .next (takeResponse s) := by
  simp [clockEdge, hrst, hidle, hv, htake]

/-- R45 (4), R166 (c). -/
theorem clockEdge_waits (hrst : p.rst = false) (hidle : s.busy = false) (hv : s.rspValid = true)
    (htake : p.rspReady = false) : clockEdge p s = .next s := by
  simp [clockEdge, hrst, hidle, hv, htake]

/-- R45 (2), R46: an edge that accepts no command does not read one. -/
theorem clockEdge_ignores_command (h : ¬ (p.cmdValid = true ∧ cmdReady p.rst s = true)) (op : BitVec 4) (d0 d1 : Word) :
    clockEdge p s = clockEdge { p with cmdOp := op, cmdD0 := d0, cmdD1 := d1 } s := by
  unfold clockEdge
  split_ifs with hrst hbusy hleft hv htake hvalid <;> try rfl
  have hready : cmdReady p.rst s = true := by simp [cmdReady, hrst, hbusy, hv]
  exact absurd ⟨hvalid, hready⟩ h

theorem clockEdges_cons {t : State} (h : clockEdge p s = .next t) (ps : List Pins) :
    clockEdges (p :: ps) s = clockEdges ps t := by
  simp [clockEdges, h]

theorem clockEdges_singleton (p : Pins) (s : State) : clockEdges [p] s = clockEdge p s := by
  unfold clockEdges
  cases clockEdge p s <;> rfl

end

/-- R45 (3), R47: fewer edges than a command in flight has to go change the countdown and the round index only. -/
theorem clockEdges_inFlight {ps : List Pins} {s : State} (hps : ∀ q ∈ ps, q.rst = false) (hbusy : s.busy = true)
    (hlen : ps.length < s.left) :
    ∃ n, clockEdges ps s = .next { s with left := s.left - ps.length, rnd := n } := by
  induction ps generalizing s with
  | nil => exact ⟨s.rnd, rfl⟩
  | cons p ps ih =>
    obtain ⟨hrst, hps⟩ := List.forall_mem_cons.1 hps
    rw [List.length_cons] at hlen
    obtain ⟨n, hn⟩ := ih (s := runOn s) hps hbusy (Nat.lt_sub_of_add_lt hlen)
    refine ⟨n, ?_⟩
    rw [clockEdges_cons (clockEdge_runs_on hrst hbusy (by omega)), hn, List.length_cons, Nat.add_comm, ← Nat.sub_sub]
    rfl

/-- R45 (3), R47: the edges a command in flight has to go carry it out, all at once. -/
theorem clockEdges_complete {ps : List Pins} {s : State} (hps : ∀ q ∈ ps, q.rst = false) (hbusy : s.busy = true)
    (hpos : 1 ≤ s.left) (hlen : ps.length = s.left) :
    clockEdges ps s = exec (decodeFrame s.held) (idleEngine s) := by
  induction ps generalizing s with
  | nil =>
    rw [List.length_nil] at hlen
    omega
  | cons p ps ih =>
    obtain ⟨hrst, hps⟩ := List.forall_mem_cons.1 hps
    rw [List.length_cons] at hlen
    cases ps with
    | nil => rw [clockEdges_singleton, clockEdge_responds hrst hbusy (Nat.le_of_eq hlen.symm)]
    | cons q qs =>
      rw [List.length_cons] at hlen
      have hlater : (q :: qs).length = (runOn s).left := Nat.eq_sub_of_add_eq hlen
      have hpos' : 1 ≤ (runOn s).left := hlater ▸ Nat.succ_pos _
      rw [clockEdges_cons (clockEdge_runs_on hrst hbusy (by omega)), ih (s := runOn s) hps hbusy hpos' hlater]
      rfl

/-- R45 (4): edges without `rsp_ready` leave a pending response, and all else, as it is. -/
theorem clockEdges_wait {ps : List Pins} {s : State} (hidle : s.busy = false) (hv : s.rspValid = true)
    (hps : ∀ q ∈ ps, q.rst = false ∧ q.rspReady = false) : clockEdges ps s = .next s := by
  induction ps with
  | nil => rfl
  | cons p ps ih =>
    obtain ⟨⟨hrst, htake⟩, hps⟩ := List.forall_mem_cons.1 hps
    rw [clockEdges_cons (clockEdge_waits hrst hidle hv htake), ih hps]

/-- R45 (1), R45 (3): the state a command runs on after its countdown is the one it was accepted in, but for the sequencing
fields. -/
theorem idleEngine_acceptCommand {s : State} (hidle : s.busy = false) (p : Pins) :
    idleEngine (acceptCommand p s) =
      { s with rsel := rselDriven (instrOf p.cmdOp p.cmdD0 p.cmdD1) s, rnd := 0,
               held := frameOf p.cmdOp p.cmdD1 p.cmdD0, left := 0 } := by
  simp [idleEngine, acceptCommand, hidle]

/-- R47, R62: a command reads no sequencing field; with the select it drives already driven it does what it does. -/
theorem exec_withSequencing {i : Instr} {s t : State} (h : exec i s = .next t) (n : BitVec 4) (f : Frame) (l : Nat) :
    exec i { s with rsel := rselDriven i s, rnd := n, held := f, left := l } =
      .next { t with rnd := n, held := f, left := l } := by
  rw [← exec_rsel h, exec_eq]
  obtain ⟨hl, rfl⟩ | ⟨hl, rfl⟩ := exec_cases h
  · simp only [hl, if_true]
    cases i
    case enc d0 _ => simp only [bodyOf, encBody_eq]; split <;> rfl
    case dec d0 _ => simp only [bodyOf, decBody_eq]; split <;> rfl
    all_goals rfl
  · simp only [hl]
    rfl

section
variable {s : State} {rest : List HostInput}

theorem step_of_inputs {e : HostInput} (h : s.inputs = e :: rest) : step s = hostInput e { s with inputs := rest } := by
  simp [step, h]

theorem step_edge {p : Pins} (h : s.inputs = .edge p :: rest) (hlost : s.lost = false) :
    step s = clockEdge p { s with inputs := rest } := by
  simp [step_of_inputs h, hostInput, hlost]

theorem step_command {f : Frame} (h : s.inputs = .command f :: rest) (hlost : s.lost = false) :
    step s = offerCommand f { s with inputs := rest } := by
  simp [step_of_inputs h, hostInput, hlost]

theorem step_take (h : s.inputs = .take :: rest) (hlost : s.lost = false) :
    step s = .next (offerTake { s with inputs := rest }) := by
  simp [step_of_inputs h, hostInput, hlost]

/-- R44, R46. -/
theorem offerCommand_of_ready (f : Frame) (h : cmdReady false s = true) : offerCommand f s = exec (decodeFrame f) s :=
  if_pos h

/-- R166 (a), log entry 3: the command is not executed. -/
theorem offerCommand_of_not_ready (f : Frame) (h : ¬ cmdReady false s = true) : offerCommand f s = .next s :=
  if_neg h

/-- R45 (4). -/
theorem offerTake_of_pending (hidle : s.busy = false) (hv : s.rspValid = true) : offerTake s = takeResponse s := by
  simp [offerTake, hidle, hv]

theorem offerTake_of_nothing (h : s.busy = true ∨ s.rspValid = false) : offerTake s = s := by
  obtain h | h := h <;> simp [offerTake, h]

end

end Sys2Proof.Machine

/-! The statements about the command port (20_memory.md). -/

namespace Sys2Proof.Proofs
open Sys2Proof.Machine Sys2Proof.Safety

/-- Settles O49: the accepting edge is `acceptCommand`, and every other edge ignores the command pins. -/
theorem commandAcceptance : Obligations.CommandAcceptance := by
  refine ⟨fun rst s => cmdReady_iff, fun p s hvalid hready => ?_, fun p q s hq h => ?_⟩
  · exact ⟨_, clockEdge_accepts hready hvalid, rfl, Laws.decodeFrame_frameOf .., Laws.frameOp_frameOf .., rfl,
      Nat.succ_pos _, rfl, rfl, rfl⟩
  · rw [hq]
    exact clockEdge_ignores_command h _ _ _

/-- Settles O50: LAT edges after the accepting one the held command runs, on a state that differs from the one it was
accepted in by the sequencing fields only. -/
theorem clockedCoreRefinesTransaction : Obligations.ClockedCoreRefinesTransaction := by
  rintro p ps s ⟨-, hidle, hv⟩ hrst hvalid hps hlen
  obtain ⟨t, ht⟩ : ∃ t, exec (instrOf p.cmdOp p.cmdD0 p.cmdD1) s = .next t := ⟨_, exec_eq _ s⟩
  obtain ⟨-, -, -, -, -, -, -, -, htv⟩ := exec_frame ht
  have hrun : clockEdges ps (acceptCommand p s) =
      exec (decodeFrame (acceptCommand p s).held) (idleEngine (acceptCommand p s)) :=
    clockEdges_complete hps rfl (Nat.succ_pos _) hlen
  have hdecode : decodeFrame (acceptCommand p s).held = instrOf p.cmdOp p.cmdD0 p.cmdD1 := Laws.decodeFrame_frameOf ..
  refine ⟨t, { t with rnd := 0, held := frameOf p.cmdOp p.cmdD1 p.cmdD0, left := 0 }, ht, ?_, rfl, htv⟩
  rw [clockEdges_cons (clockEdge_accepts (cmdReady_iff.2 ⟨hrst, hidle, hv⟩) hvalid), hrun, hdecode,
    idleEngine_acceptCommand hidle, exec_withSequencing ht]

/-- Settles O51: fewer than LAT edges after the accepting one the command is still in flight. -/
theorem nothingVisibleBeforeResponse : Obligations.NothingVisibleBeforeResponse := by
  rintro p ps s ⟨-, hidle, hv⟩ hrst hvalid hps hlen
  have haccept := clockEdge_accepts (cmdReady_iff.2 ⟨hrst, hidle, hv⟩) hvalid
  obtain ⟨n, hflight⟩ := clockEdges_inFlight (s := acceptCommand p s) hps rfl hlen
  exact ⟨_, (clockEdges_cons haccept ps).trans hflight, rfl, hv, rfl, rfl⟩

/-- Settles O52: by induction on the edges without `rsp_ready`; the edge with it is `takeResponse`. -/
theorem responseStableUntilTaken : Obligations.ResponseStableUntilTaken := by
  refine ⟨fun ps s => clockEdges_wait, fun p s hidle hv hrst htake => ?_⟩
  exact ⟨_, clockEdge_takes hrst hidle hv htake, rfl, cmdReady_iff.2 ⟨rfl, hidle, rfl⟩, rfl⟩

/-- Settles O56: the command goes to `exec` where `cmd_ready` is 1, and is dropped where it is not. -/
theorem stepRunsDecodedCommand : Obligations.StepRunsDecodedCommand := by
  refine ⟨fun f i rest s hin hready hi _ => ?_, fun f rest s hin hlost hblocked => ?_⟩
  · obtain ⟨hlost, hidle, hv⟩ := hready
    have hready : cmdReady false { s with inputs := rest } = true := cmdReady_iff.2 ⟨rfl, hidle, hv⟩
    rw [step_command hin hlost, offerCommand_of_ready f hready, hi]
  · have hnot : ¬ cmdReady false { s with inputs := rest } = true := by
      obtain h | h := hblocked <;> simp [cmdReady, h]
    rw [step_command hin hlost, offerCommand_of_not_ready f hnot]

/-- Settles O57: one clause per host input, a take by whether there is a response to take. -/
theorem stepFollowsHostInput : Obligations.StepFollowsHostInput := by
  refine ⟨fun p rest s => step_edge, fun rest s => step_of_inputs, fun rest s hin hlost hnothing => ?_,
    fun rest s hin hlost hidle hv => ⟨takeResponse { s with inputs := rest }, ?_, ⟨hlost, hidle, rfl⟩, rfl, rfl⟩⟩
  · rw [step_take hin hlost, offerTake_of_nothing (s := { s with inputs := rest }) hnothing]
  · rw [step_take hin hlost, offerTake_of_pending (s := { s with inputs := rest }) hidle hv]

end Sys2Proof.Proofs

/-! Decoding and encoding undo each other (30_encoding.md R55 to R57), on frames and on raw numbers, and the rows of the
opcode table by index. -/

namespace Sys2Proof.Laws

/-- R55, R60: the frame of a command decodes to it. -/
@[simp] theorem decodeFrame_encode (i : Instr) : decodeFrame (encode i) = i := by
  rw [encode, decodeFrame_frameOf, instrOf_opcode]

/-- R55, R57: no bit of a frame is dropped. -/
@[simp] theorem encode_decodeFrame (f : Frame) : encode (decodeFrame f) = f := by
  obtain ⟨hop, hd0, hd1⟩ := instrOf_fields (frameOp f) (frameD0 f) (frameD1 f)
  rw [encode, decodeFrame, hop, hd0, hd1, frameOf_fields]

theorem decode_of_lt {w : Nat} (h : w < 2 ^ 132) : decode w = .ok (decodeFrame (BitVec.ofNat 132 w)) := by
  rw [decode, if_pos (by simpa [rawWf] using h)]

/-- R55 (log entry 12): a number with a bit above bit 131. -/
theorem decode_of_ge {w : Nat} (h : 2 ^ 132 ≤ w) : decode w = .error (.strayBits w) := by
  rw [decode, if_neg (by simpa [rawWf] using h)]

theorem decode_toNat (f : Frame) : decode f.toNat = .ok (decodeFrame f) := by
  rw [decode_of_lt f.isLt, BitVec.ofNat_toNat, BitVec.setWidth_eq]

theorem frameOf_and (a b : BitVec 4) (d1 e1 d0 e0 : Word) :
    frameOf a d1 d0 &&& frameOf b e1 e0 = frameOf (a &&& b) (d1 &&& e1) (d0 &&& e0) := by
  apply BitVec.eq_of_getLsbD_eq
  intro j hj
  simp only [BitVec.getLsbD_and, frameOf_getLsbD]
  split_ifs <;> rfl

/-- R57: the mask keeps the opcode field and no other bit. -/
theorem and_opcodeMask (f : Frame) : f &&& opcodeMask = frameOf (frameOp f) 0 0 := by
  have hmask : opcodeMask = frameOf (BitVec.allOnes 4) 0 0 := by decide
  rw [hmask, ← frameOf_fields f, frameOf_and, BitVec.and_allOnes]
  simp

/-- R57: two frames with zero operands are one exactly when their opcodes are. -/
theorem frameOf_zero_inj {a b : BitVec 4} : frameOf a 0 0 = frameOf b 0 0 ↔ a = b :=
  ⟨fun h => by simpa using congrArg frameOp h, fun h => h ▸ rfl⟩

/-- R57: row `k` of the opcode table, its match the frame of opcode `k` and no operand. -/
theorem opcodeTable_getElem? (k : Fin 16) :
    opcodeTable[k.val]? = some (frameOf (BitVec.ofFin k) 0 0, instrOf (BitVec.ofFin k)) := by
  fin_cases k <;> rfl

/-- R57: the match of row `k` is `k` in bits 131:128. -/
theorem frameOf_zero_eq_shiftLeft : ∀ k : Fin 16, frameOf (BitVec.ofFin k) 0 0 = BitVec.ofNat 132 k.val <<< 128 := by
  decide

/-- R59: the reserved opcodes are the upper half of the map. -/
theorem reserved_instrOf (op : BitVec 4) (d0 d1 : Word) :
    Machine.reserved (instrOf op d0 d1) = true ↔ 8 ≤ op.toNat := by
  revert op
  refine forall_opcode fun k => ?_
  fin_cases k <;> simp [instrOf, opcodeMap, Machine.reserved]

end Sys2Proof.Laws

namespace Sys2Proof.Proofs
open Sys2Proof.Machine Sys2Proof.Laws

/-- Settles O1: the frame of a command is a number of 132 bits, and its fields are the command's. -/
theorem encodingRoundTrip : Obligations.EncodingRoundTrip := by
  intro i _
  rw [decode_toNat, decodeFrame_encode]

/-- Settles O2: a frame is made of its three fields, so the command with those fields has that frame. -/
theorem decodingRoundTrip : Obligations.DecodingRoundTrip := by
  refine ⟨encode_decodeFrame, fun w hw => ⟨_, decode_of_lt hw, ?_⟩, fun w => decode_of_ge⟩
  rw [encode_decodeFrame, BitVec.toNat_ofNat, Nat.mod_eq_of_lt hw]

/-- Settles O3: under the mask a frame is its opcode field alone, and so is the match of each row. -/
theorem opcodeAloneSelects : Obligations.OpcodeAloneSelects := by
  refine ⟨by decide, rfl, fun f => ⟨fun k row hrow => ?_, ?_, reserved_instrOf _ _ _⟩⟩
  · have hk : k < 16 := (List.getElem?_eq_some_iff.1 hrow).1
    rw [opcodeTable_getElem? ⟨k, hk⟩] at hrow
    cases hrow
    refine ⟨frameOf_zero_eq_shiftLeft ⟨k, hk⟩, ?_⟩
    rw [and_opcodeMask, frameOf_zero_inj, ← BitVec.toNat_inj]
    rfl
  · exact ⟨_, opcodeTable_getElem? (frameOp f).toFin, rfl⟩

/-- Settles O4: the nine lines are run. -/
theorem workedEncodings : Obligations.WorkedEncodings := by
  unfold Obligations.WorkedEncodings
  decide

end Sys2Proof.Proofs

/-! What an operand field a command does not use can change: nothing (30_encoding.md R58). -/

namespace Sys2Proof.Machine

/-- R122: whether a command is legal reads its opcode and the phase, no operand. -/
theorem legal_congr {i j : Instr} (h : i.opcode = j.opcode) (ph : Phase) : legal i ph = legal j ph := by
  obtain ⟨d0, d1, rfl⟩ := exists_instrOf_of_opcode h.symm
  cases i <;> rfl

/-- R58: a command depends on its opcode and the operands it uses. -/
theorem exec_congr {i j : Instr} (h : i.opcode = j.opcode) (h0 : 1 ≤ operandsUsed i → i.d0 = j.d0)
    (h1 : 2 ≤ operandsUsed i → i.d1 = j.d1) (s : State) : exec i s = exec j s := by
  obtain ⟨d0, d1, rfl⟩ := exists_instrOf_of_opcode h.symm
  obtain ⟨-, hd0, hd1⟩ := Laws.instrOf_fields i.opcode d0 d1
  rw [hd0] at h0
  rw [hd1] at h1
  cases i
  case init => rw [← h0 one_le_two, ← h1 le_rfl]; rfl
  case ad => rw [← h0 le_rfl]; rfl
  case enc => rw [← h0 le_rfl]; rfl
  case dec => rw [← h0 le_rfl]; rfl
  all_goals rfl

/-- R58: any value of an operand field is legal. -/
theorem Instr.wf_eq_true (i : Instr) : i.wf = true := by cases i <;> rfl

/-- R58, R63: the operand fields a line's command does not use are zero. -/
theorem assemble_unused_zero {a : Asm} {i : Instr} (h : assemble a = .ok i) :
    (operandsUsed i < 1 → i.d0 = 0) ∧ (operandsUsed i < 2 → i.d1 = 0) := by
  unfold assemble at h
  split at h
  next hwf =>
    cases a
    case cmd n =>
      cases h
      obtain ⟨-, hd0, hd1⟩ := Laws.instrOf_fields (BitVec.ofNat 4 n) 0 0
      exact ⟨fun _ => hd0, fun _ => hd1⟩
    all_goals
      cases h
      simp [operandsUsed, Instr.d0, Instr.d1]
  next => cases a <;> cases h

end Sys2Proof.Machine

/-! The source's operations as runs of commands (30_encoding.md R64): one command, the blocks of associated data, and the
blocks of a message in either direction. -/

namespace Sys2Proof.Machine

/-- R174: a legal command alone. -/
theorem runCommands_singleton {i : Instr} {s : State} (h : legal i s.phase = true) :
    runCommands [i] s = some (takeResponse (bodyOf i s), [(bodyOf i s).rsp]) :=
  runCommands_cons (exec_of_legal h) rfl

/-- R104: associated-data blocks are absorbed in order. -/
theorem runCommands_ad (ad : List Word) {s : State} (hp : s.phase = .initialized) :
    ∃ t, runCommands (ad.map fun a => .ad a 0) s = some (t, List.replicate ad.length ⟨.ok, 0, 0⟩) ∧
      t.S = ad.foldl (fun S a => permute s.subst .short (S.xorRate a)) s.S ∧ t.K = s.K ∧ t.phase = .initialized := by
  induction ad generalizing s with
  | nil => exact ⟨s, rfl, rfl, rfl, hp⟩
  | cons a ad ih =>
    have hexec : exec (.ad a 0) s = .next (adBody a s) := exec_of_legal (by simp [legal, hp])
    obtain ⟨t, hrun, hS, hK, hphase⟩ := ih (s := takeResponse (adBody a s)) hp
    exact ⟨t, runCommands_cons hexec hrun, hS, hK, hphase⟩

/-- R109, R112: a message command `cmd` of direction `dir`, which answers with block and rate word xored and leaves the rate
word `rate` says, and the source's operation over a block list, which does the same block by block with `P6` between. -/
structure MessageOperation (dir : Phase) (cmd : Word → Instr) (rate : Word → Sponge → Word)
    (source : SubstChoice → Bool → List Word → Sponge → Sponge × List Word) : Prop where
  dir_ne : dir ≠ .absorbedAd
  legal_of : ∀ x ph, ph = .absorbedAd ∨ ph = dir → legal (cmd x) ph = true
  body_S : ∀ x s, (bodyOf (cmd x) s).S = (messageState dir s).setRate (rate x (messageState dir s))
  body_K : ∀ x s, (bodyOf (cmd x) s).K = s.K
  body_phase : ∀ x s, (bodyOf (cmd x) s).phase = dir
  body_rsp : ∀ x s, (bodyOf (cmd x) s).rsp = ⟨.ok, x ^^^ (messageState dir s).s0, 0⟩
  source_nil : ∀ c first S, source c first [] S = (S, [])
  source_cons : ∀ c first x xs S, source c first (x :: xs) S =
    let M := if first then S else permute c .short S
    let r := source c false xs (M.setRate (rate x M))
    (r.1, (x ^^^ M.s0) :: r.2)

theorem encrypt_messageOperation :
    MessageOperation .encrypting (fun p => .enc p 0) (fun p M => p ^^^ M.s0) sourceEncrypt where
  dir_ne := by decide
  legal_of x ph h := by obtain rfl | rfl := h <;> rfl
  body_S x s := encBody_S x s
  body_K x s := encBody_K x s
  body_phase x s := encBody_phase x s
  body_rsp x s := encBody_rsp x s
  source_nil _ _ _ := rfl
  source_cons _ _ _ _ _ := rfl

theorem decrypt_messageOperation :
    MessageOperation .decrypting (fun c => .dec c 0) (fun c _ => c) sourceDecrypt where
  dir_ne := by decide
  legal_of x ph h := by obtain rfl | rfl := h <;> rfl
  body_S x s := decBody_S x s
  body_K x s := decBody_K x s
  body_phase x s := decBody_phase x s
  body_rsp x s := decBody_rsp x s
  source_nil _ _ _ := rfl
  source_cons _ _ _ _ _ := rfl

/-- R30: the message has begun in this direction exactly when its first block is not the next one. -/
theorem messageState_eq_ite {dir : Phase} {s : State} (hdir : dir ≠ .absorbedAd)
    (hp : s.phase = .absorbedAd ∨ s.phase = dir) :
    messageState dir s = if s.phase = .absorbedAd then s.S else permute s.subst .short s.S := by
  obtain hp | hp := hp
  · rw [if_pos hp, messageState_of_first (by rw [hp]; exact hdir.symm)]
  · rw [if_neg (by rw [hp]; exact hdir), messageState, if_pos hp]

/-- R64, R109, R112: the commands of the blocks of a message do what the source's operation does. -/
theorem MessageOperation.run_eq {dir : Phase} {cmd : Word → Instr} {rate : Word → Sponge → Word}
    {source : SubstChoice → Bool → List Word → Sponge → Sponge × List Word} (op : MessageOperation dir cmd rate source)
    (xs : List Word) {s : State} (hp : s.phase = .absorbedAd ∨ s.phase = dir) :
    ∃ t, runCommands (xs.map cmd) s =
        some (t, (source s.subst (s.phase = .absorbedAd) xs s.S).2.map fun y => ⟨.ok, y, 0⟩) ∧
      t.S = (source s.subst (s.phase = .absorbedAd) xs s.S).1 ∧ t.K = s.K ∧
      t.phase = if xs = [] then s.phase else dir := by
  induction xs generalizing s with
  | nil => exact ⟨s, by simp [runCommands, op.source_nil], by simp [op.source_nil], rfl, by simp⟩
  | cons x xs ih =>
    have hexec := exec_of_legal (op.legal_of x s.phase hp)
    have hphase := op.body_phase x s
    obtain ⟨t, hrun, hS, hK, htp⟩ := ih (s := takeResponse (bodyOf (cmd x) s)) (.inr hphase)
    simp only [takeResponse_S, takeResponse_subst, takeResponse_phase, op.body_S, hphase, exec_keeps_subst hexec, op.dir_ne,
      decide_false] at hrun hS
    have hcons := op.source_cons s.subst (s.phase = .absorbedAd) x xs s.S
    simp only [decide_eq_true_eq, ← messageState_eq_ite op.dir_ne hp] at hcons
    rw [hcons]
    refine ⟨t, ?_, hS, hK.trans (op.body_K x s), ?_⟩
    · rw [List.map_cons, List.map_cons, ← op.body_rsp]
      exact runCommands_cons hexec hrun
    · rw [htp, takeResponse_phase, hphase, ite_self, if_neg (List.cons_ne_nil x xs)]

end Sys2Proof.Machine

namespace Sys2Proof.Proofs
open Sys2Proof.Machine

/-- Settles O5: a command of another's opcode is that command but for its operands, and each reads the ones it uses. -/
theorem unusedOperandsIgnored : Obligations.UnusedOperandsIgnored :=
  ⟨fun _ _ s h h0 h1 => exec_congr h h0 h1 s, fun i _ ph h => ⟨legal_congr h ph, Instr.wf_eq_true i⟩,
    fun _ _ => assemble_unused_zero⟩

/-- Settles O45: INIT and FINAL are one command each; the block lists are by induction. -/
theorem sourceOperationsExpand : Obligations.SourceOperationsExpand := by
  refine ⟨fun k0 k1 s hp => ?_, fun ad s hp => ?_, fun pt s => encrypt_messageOperation.run_eq pt,
    fun ct s => decrypt_messageOperation.run_eq ct, fun k0 k1 s hp hk => ?_⟩
  · have hl : legal (.init k0 k1) s.phase = true := by obtain hp | hp := hp <;> rw [hp] <;> rfl
    exact ⟨_, runCommands_singleton hl, rfl, rfl, rfl⟩
  · obtain ⟨t, hrun, hS, hK, hphase⟩ := runCommands_ad ad hp
    have hl : legal (.adEnd 0 0) t.phase = true := by rw [hphase]; rfl
    rw [List.replicate_succ']
    exact ⟨_, runCommands_append hrun (runCommands_singleton hl), congrArg Sponge.flipDomain hS, hK, rfl⟩
  · have hl : legal (.final 0 0) s.phase = true := by obtain hp | hp | hp := hp <;> rw [hp] <;> rfl
    rw [← hk]
    exact ⟨_, runCommands_singleton hl, rfl, rfl⟩

end Sys2Proof.Proofs

/-! From the text of a line to the line of the assembler (30_encoding.md R63; log entry 13). -/

namespace Sys2Proof.Machine

/-- R63: a line up to its comment. -/
def codeOf (line : List Char) : List Char := line.takeWhile fun c => !(c == ';')

/-- R63: the operands of the text after a mnemonic. -/
def operandsOf (rest : List Char) : Option (List Nat) :=
  if (trim rest).isEmpty then some [] else literals ((splitCommas (trim rest)).map trim)

/-- R63: the line a form makes of its operands, if their number fits. -/
def lineOf : Option Asm → Except AsmError (Option Asm)
  | none => .error .operandCount
  | some a => .ok (some a)

/-- R63: what a mnemonic and the text after it read as. -/
def readForm (mnemonic rest : List Char) : Except AsmError (Option Asm) :=
  match asmForms.find? (fun form => form.1 == mnemonic) with
  | none => .error .unknownMnemonic
  | some form =>
    match operandsOf rest with
    | none => .error .badLiteral
    | some ns => lineOf (form.2 ns)

theorem isBlank_iff {c : Char} : isBlank c = true ↔ c = ' ' ∨ c = '\t' := by simp [isBlank]

theorem isBlank_eq_false_iff {c : Char} : isBlank c = false ↔ ¬ (c = ' ' ∨ c = '\t') := by
  rw [← isBlank_iff, Bool.not_eq_true]

theorem codeOf_eq_self {cs : List Char} (h : ∀ c ∈ cs, c ≠ ';') : codeOf cs = cs :=
  List.takeWhile_eq_self_iff.2 (by simpa using h)

theorem codeOf_append {cs : List Char} (h : ∀ c ∈ cs, c ≠ ';') (ds : List Char) :
    codeOf (cs ++ ds) = cs ++ codeOf ds :=
  List.takeWhile_append_of_pos (by simpa using h)

/-- R63: a comment runs to the end of the line. -/
theorem codeOf_comment (line rest : List Char) : codeOf (line ++ ';' :: rest) = codeOf line := by
  induction line with
  | nil => rfl
  | cons c cs ih =>
    unfold codeOf at ih ⊢
    rw [List.cons_append, List.takeWhile_cons, List.takeWhile_cons, ih]

/-- A text with no comment sign behind a line is part of its comment or of its code. -/
theorem codeOf_append_eq {b : List Char} (h : ∀ c ∈ b, c ≠ ';') (line : List Char) :
    codeOf (line ++ b) = codeOf line ∨ codeOf (line ++ b) = codeOf line ++ b := by
  induction line with
  | nil => exact .inr (codeOf_eq_self h)
  | cons c cs ih =>
    unfold codeOf at ih ⊢
    rw [List.cons_append, List.takeWhile_cons, List.takeWhile_cons]
    split_ifs
    · exact ih.imp (congrArg _) (congrArg _)
    · exact .inl rfl

theorem ne_semicolon_of_isBlank {b : List Char} (h : ∀ c ∈ b, isBlank c = true) : ∀ c ∈ b, c ≠ ';' := by
  rintro c hc rfl
  exact absurd (h _ hc) (by decide)

/-- R63: a line is read through its code, blanks at either end left out. -/
theorem parseLine_congr {line line' : List Char} (h : trim (codeOf line) = trim (codeOf line')) :
    parseLine line = parseLine line' := by
  unfold codeOf at h
  unfold parseLine
  rw [h]

theorem trim_append_left {b : List Char} (hb : ∀ c ∈ b, isBlank c = true) (cs : List Char) :
    trim (b ++ cs) = trim cs := by
  simpa using trim_pad (b' := []) hb (by simp) cs

/-- R63 (log entry 13): blanks around a line change nothing; behind a comment they are part of it. -/
theorem parseLine_blanks {b b' : List Char} (hb : ∀ c ∈ b, isBlank c = true) (hb' : ∀ c ∈ b', isBlank c = true)
    (line : List Char) : parseLine (b ++ line ++ b') = parseLine line := by
  apply parseLine_congr
  rw [List.append_assoc, codeOf_append (ne_semicolon_of_isBlank hb)]
  obtain h | h := codeOf_append_eq (ne_semicolon_of_isBlank hb') line
  · rw [h, trim_append_left hb]
  · rw [h, ← List.append_assoc, trim_pad hb hb']

/-- Blanks at the end of a text do not count, whatever stands before it. -/
theorem trim_append_rdropWhile (cs ds : List Char) : trim (cs ++ ds.rdropWhile isBlank) = trim (cs ++ ds) := by
  have hpad := trim_pad (b := []) (b' := ds.rtakeWhile isBlank) (by simp) (fun c hc => List.mem_rtakeWhile_imp hc)
    (cs ++ ds.rdropWhile isBlank)
  rw [List.nil_append, List.append_assoc, List.rdropWhile_append_rtakeWhile] at hpad
  exact hpad.symm

/-- A word of no blanks at the front of a text stays when the text is trimmed, and what follows loses blanks at its end
only. -/
theorem trim_word_append {word : List Char} (hne : word ≠ []) (hword : ∀ c ∈ word, isBlank c = false)
    (rest : List Char) : trim (word ++ rest) = word ++ rest.rdropWhile isBlank := by
  rw [← trim_append_rdropWhile]
  refine trim_eq_self (fun c hc => ?_) fun c hc => ?_
  · rw [List.head?_append_of_ne_nil _ hne] at hc
    exact hword c (List.mem_of_mem_head? hc)
  · by_cases hrest : rest.rdropWhile isBlank = []
    · rw [hrest, List.append_nil] at hc
      exact hword c (List.mem_of_mem_getLast? hc)
    · rw [List.getLast?_append_of_ne_nil _ hrest, List.getLast?_eq_some_getLast hrest] at hc
      cases hc
      simpa using List.rdropWhile_last_not isBlank rest hrest

theorem mem_head?_of_prefix {cs ds : List Char} (h : cs <+: ds) {c : Char} (hc : c ∈ cs.head?) : c ∈ ds.head? := by
  obtain ⟨es, rfl⟩ := h
  cases cs with
  | nil => cases hc
  | cons d cs => exact hc

/-- R63: a line that begins with a word is read as the form of that word, if any. -/
theorem parseLine_word {word rest : List Char} (hne : word ≠ []) (hword : ∀ c ∈ word, isBlank c = false ∧ c ≠ ';')
    (hrest : ∀ c ∈ rest.head?, isBlank c = true) : parseLine (word ++ rest) = readForm word (codeOf rest) := by
  obtain ⟨hblank, hcomment⟩ := forall₂_and.1 hword
  have hcode : trim (codeOf (word ++ rest)) = word ++ (codeOf rest).rdropWhile isBlank := by
    rw [codeOf_append hcomment, trim_word_append hne hblank]
  have hprefix : (codeOf rest).rdropWhile isBlank <+: rest :=
    (List.rdropWhile_prefix isBlank (codeOf rest)).trans (List.takeWhile_prefix _)
  have htrim : trim ((codeOf rest).rdropWhile isBlank) = trim (codeOf rest) := trim_append_rdropWhile [] _
  rw [parseLine_of_code hcode hblank hne fun c hc => hrest c (mem_head?_of_prefix hprefix hc), htrim]
  rfl

/-- R63: a mnemonic selects its form. -/
theorem find?_asmForms {form : List Char × (List Nat → Option Asm)} (h : form ∈ asmForms) :
    asmForms.find? (fun f => f.1 == form.1) = some form := by
  simp only [asmForms, List.mem_cons, List.not_mem_nil, or_false] at h
  obtain rfl | rfl | rfl | rfl | rfl | rfl | rfl | rfl | rfl := h <;> rfl

theorem mnemonic_of_mem {form : List Char × (List Nat → Option Asm)} (h : form ∈ asmForms) :
    form.1 ≠ [] ∧ ∀ c ∈ form.1, isBlank c = false ∧ c ≠ ';' := by
  have hall : ∀ m ∈ asmForms.map Prod.fst, m ≠ [] ∧ ∀ c ∈ m, isBlank c = false ∧ c ≠ ';' := by
    simp [asmForms, isBlank]
  exact hall _ (List.mem_map_of_mem h)

theorem readForm_unknown {word : List Char} (h : ∀ form ∈ asmForms, word ≠ form.1) (rest : List Char) :
    readForm word rest = .error .unknownMnemonic := by
  have hnone : asmForms.find? (fun form => form.1 == word) = none :=
    List.find?_eq_none.2 fun form hform => by simpa using (h form hform).symm
  rw [readForm, hnone]

theorem readForm_badLiteral {form : List Char × (List Nat → Option Asm)} {rest : List Char} (h : form ∈ asmForms)
    (hops : operandsOf rest = none) : readForm form.1 rest = .error .badLiteral := by
  rw [readForm, find?_asmForms h, hops]

theorem readForm_operands {form : List Char × (List Nat → Option Asm)} {rest : List Char} {ns : List Nat}
    (h : form ∈ asmForms) (hops : operandsOf rest = some ns) : readForm form.1 rest = lineOf (form.2 ns) := by
  rw [readForm, find?_asmForms h, hops]

/-- R63: a mnemonic alone. -/
theorem parseLine_mnemonic {form : List Char × (List Nat → Option Asm)} (h : form ∈ asmForms) :
    parseLine form.1 = lineOf (form.2 []) := by
  obtain ⟨hne, hword⟩ := mnemonic_of_mem h
  have hline := parseLine_word (rest := []) hne hword (by simp)
  rw [List.append_nil] at hline
  rw [hline]
  exact readForm_operands h rfl

/-- R63: a mnemonic, blanks, and a text with no comment. -/
theorem parseLine_mnemonic_append {form : List Char × (List Nat → Option Asm)} {b rest : List Char}
    (h : form ∈ asmForms) (hne : b ≠ []) (hb : ∀ c ∈ b, isBlank c = true) (hrest : ∀ c ∈ rest, c ≠ ';') :
    parseLine (form.1 ++ b ++ rest) = readForm form.1 (b ++ rest) := by
  obtain ⟨hform, hword⟩ := mnemonic_of_mem h
  have hhead : ∀ c ∈ (b ++ rest).head?, isBlank c = true := by
    rw [List.head?_append_of_ne_nil _ hne]
    exact fun c hc => hb c (List.mem_of_mem_head? hc)
  rw [List.append_assoc, parseLine_word hform hword hhead, codeOf_append (ne_semicolon_of_isBlank hb),
    codeOf_eq_self hrest]

/-! Operands: their digits, and the texts between commas. -/

/-- The digits of value 0 to 15, in order. -/
def lowerDigits : List Char := ['0', '1', '2', '3', '4', '5', '6', '7', '8', '9', 'a', 'b', 'c', 'd', 'e', 'f']

/-- Log entry 13: the digits of either case. -/
def hexChars : List Char := lowerDigits ++ ['A', 'B', 'C', 'D', 'E', 'F']

/-- The value of a digit. -/
def digitValue (c : Char) : Nat := lowerDigits.idxOf c.toLower

/-- The value of a text of digits. -/
def hexValue (ds : List Char) : Nat := ds.foldl (fun n c => 16 * n + digitValue c) 0

theorem hexDigit_of_mem : ∀ c ∈ hexChars, hexDigit c = some (digitValue c) := by
  simp [hexChars, lowerDigits, hexDigit, digitValue]

theorem isBlank_of_mem_hexChars : ∀ c ∈ hexChars, isBlank c = false := by
  simp [hexChars, lowerDigits, isBlank]

theorem hexDigit_range {c : Char} (h : (hexDigit c).isSome = true) :
    (48 ≤ c.toNat ∧ c.toNat ≤ 57) ∨ (97 ≤ c.toNat ∧ c.toNat ≤ 102) ∨ (65 ≤ c.toNat ∧ c.toNat ≤ 70) := by
  unfold hexDigit at h
  generalize c.toNat = n at h ⊢
  grind

theorem mem_hexChars {c : Char} (h : (hexDigit c).isSome = true) : c ∈ hexChars := by
  have hrange := hexDigit_range h
  rw [← Char.ofNat_toNat c]
  generalize c.toNat = n at hrange
  obtain ⟨hlo, hhi⟩ | ⟨hlo, hhi⟩ | ⟨hlo, hhi⟩ := hrange <;> interval_cases n <;> simp [hexChars, lowerDigits]

/-- R63: a literal with blanks around it. -/
theorem literal_trim {pre ds post : List Char} (hblank : ∀ c ∈ pre ++ post, isBlank c = true) (hne : ds ≠ [])
    (hds : ∀ c ∈ ds, c ∈ hexChars) : literal (trim (pre ++ '0' :: 'x' :: ds ++ post)) = some (hexValue ds) := by
  obtain ⟨hpre, hpost⟩ := List.forall_mem_append.1 hblank
  have hword : ∀ c ∈ '0' :: 'x' :: ds, isBlank c = false := by
    simpa [isBlank] using fun c hc => isBlank_eq_false_iff.1 (isBlank_of_mem_hexChars c (hds c hc))
  rw [trim_pad hpre hpost, trim_of_noBlank hword]
  exact literal_eq_some.2 ⟨ds, rfl, hne, hexDigits_eq_foldl (fun c hc => hexDigit_of_mem c (hds c hc)) 0⟩

/-- R63: and no other text is one. -/
theorem exists_of_literal_trim {o : List Char} {n : Nat} (h : literal (trim o) = some n) :
    ∃ pre ds post, o = pre ++ '0' :: 'x' :: ds ++ post ∧ (∀ c ∈ pre ++ post, isBlank c = true) ∧ ds ≠ [] ∧
      ∀ c ∈ ds, c ∈ hexChars := by
  obtain ⟨ds, htrim, hne, hdigits⟩ := literal_eq_some.1 h
  obtain ⟨pre, post, ho, hpre, hpost⟩ := trim_split o
  rw [htrim] at ho
  exact ⟨pre, ds, post, ho, List.forall_mem_append.2 ⟨hpre, hpost⟩, hne,
    fun c hc => mem_hexChars (hexDigits_isSome (by rw [hdigits]; rfl) c hc)⟩

theorem mem_intercalate {c : Char} {parts : List (List Char)} (h : c ∈ [','].intercalate parts) :
    c = ',' ∨ ∃ p ∈ parts, c ∈ p := by
  induction parts with
  | nil => simp at h
  | cons p ps ih =>
    cases ps with
    | nil => exact .inr ⟨p, by simp, by simpa using h⟩
    | cons q qs =>
      rw [List.intercalate_cons_cons, List.append_assoc, List.mem_append, List.singleton_append, List.mem_cons] at h
      obtain h | h | h := h
      · exact .inr ⟨p, by simp, h⟩
      · exact .inl h
      · obtain h | ⟨r, hr, hc⟩ := ih h
        · exact .inl h
        · exact .inr ⟨r, List.mem_cons_of_mem p hr, hc⟩

theorem mem_intercalate_head {c : Char} {p : List Char} (h : c ∈ p) (ps : List (List Char)) :
    c ∈ [','].intercalate (p :: ps) := by
  cases ps with
  | nil => simpa using h
  | cons q qs => simp [List.intercalate_cons_cons, h]

/-- R63: the operands of a text that is parts with commas between, blanks in front. -/
theorem operandsOf_intercalate {b : List Char} {parts : List (List Char)} (hb : ∀ c ∈ b, isBlank c = true)
    (hparts : ∀ p ∈ parts, ',' ∉ p) (hnonblank : ∃ c ∈ [','].intercalate parts, isBlank c = false) :
    operandsOf (b ++ [','].intercalate parts) = literals (parts.map trim) := by
  obtain ⟨c, hc, hcb⟩ := hnonblank
  have hne : parts ≠ [] := by
    rintro rfl
    simp at hc
  rw [operandsOf, trim_append_left hb, if_neg (by simpa using trim_ne_nil hc hcb), splitCommas_trim,
    splitCommas_intercalate hparts hne]

/-- R63: the text of an operand: blanks, `0x` and digits, blanks. -/
def operandText (o : List Char × List Char × List Char) : List Char := o.1 ++ '0' :: 'x' :: o.2.1 ++ o.2.2

/-- R63: which texts an operand is made of. -/
def OperandWf (o : List Char × List Char × List Char) : Prop :=
  (∀ c ∈ o.1 ++ o.2.2, isBlank c = true) ∧ o.2.1 ≠ [] ∧ ∀ c ∈ o.2.1, c ∈ hexChars

theorem operandText_noMark {o : List Char × List Char × List Char} (h : OperandWf o) :
    ∀ c ∈ operandText o, c ≠ ',' ∧ c ≠ ';' := by
  obtain ⟨hblank, -, hds⟩ := h
  have hsep : ∀ c, isBlank c = true → c ≠ ',' ∧ c ≠ ';' := by
    intro c hc
    obtain rfl | rfl := isBlank_iff.1 hc <;> decide
  have hhex : ∀ c ∈ hexChars, c ≠ ',' ∧ c ≠ ';' := by simp [hexChars, lowerDigits]
  intro c hc
  simp only [operandText, List.mem_append, List.mem_cons] at hc
  obtain (hc | rfl | rfl | hc) | hc := hc
  · exact hsep c (hblank c (List.mem_append_left _ hc))
  · decide
  · decide
  · exact hhex c (hds c hc)
  · exact hsep c (hblank c (List.mem_append_right _ hc))

theorem literal_operandText {o : List Char × List Char × List Char} (h : OperandWf o) :
    literal (trim (operandText o)) = some (hexValue o.2.1) := by
  obtain ⟨hblank, hne, hds⟩ := h
  exact literal_trim hblank hne hds

/-- Parts without the comment sign have none with commas between them either. -/
theorem intercalate_noComment {parts : List (List Char)} (h : ∀ p ∈ parts, ∀ c ∈ p, c ≠ ',' ∧ c ≠ ';') :
    ∀ c ∈ [','].intercalate parts, c ≠ ';' := by
  intro c hc
  obtain rfl | ⟨p, hp, hcp⟩ := mem_intercalate hc
  · decide
  · exact (h p hp c hcp).2

/-- R63: a mnemonic and well-formed operands. -/
theorem parseLine_operands {form : List Char × (List Nat → Option Asm)} {b : List Char}
    {operands : List (List Char × List Char × List Char)} (h : form ∈ asmForms) (hne : b ≠ [])
    (hb : ∀ c ∈ b, isBlank c = true) (hops : operands ≠ []) (hwf : ∀ o ∈ operands, OperandWf o) :
    parseLine (form.1 ++ b ++ [','].intercalate (operands.map operandText)) =
      lineOf (form.2 (operands.map fun o => hexValue o.2.1)) := by
  have hchars : ∀ p ∈ operands.map operandText, ∀ c ∈ p, c ≠ ',' ∧ c ≠ ';' :=
    List.forall_mem_map.2 fun o ho => operandText_noMark (hwf o ho)
  have hnonblank : ∃ c ∈ [','].intercalate (operands.map operandText), isBlank c = false := by
    obtain ⟨o, os, rfl⟩ := List.exists_cons_of_ne_nil hops
    exact ⟨'0', mem_intercalate_head (by simp [operandText]) _, by decide⟩
  have hliterals : literals ((operands.map operandText).map trim) = some (operands.map fun o => hexValue o.2.1) := by
    apply literals_eq_some
    simpa using fun a b c ho => literal_operandText (hwf (a, b, c) ho)
  rw [parseLine_mnemonic_append h hne hb (intercalate_noComment hchars)]
  apply readForm_operands h
  rw [operandsOf_intercalate hb (fun p hp hc => (hchars p hp _ hc).1 rfl) hnonblank, hliterals]

/-- R63 (log entry 13): a mnemonic and texts between commas of which one is no literal. -/
theorem parseLine_badLiteral {form : List Char × (List Nat → Option Asm)} {b : List Char} {parts : List (List Char)}
    (h : form ∈ asmForms) (hne : b ≠ []) (hb : ∀ c ∈ b, isBlank c = true)
    (hparts : ∀ o ∈ parts, ∀ c ∈ o, c ≠ ',' ∧ c ≠ ';') (hnonblank : ∃ c ∈ [','].intercalate parts, isBlank c = false)
    (hbad : ∃ o ∈ parts, literal (trim o) = none) :
    parseLine (form.1 ++ b ++ [','].intercalate parts) = .error .badLiteral := by
  obtain ⟨o, ho, hnone⟩ := hbad
  rw [parseLine_mnemonic_append h hne hb (intercalate_noComment hparts)]
  refine readForm_badLiteral h ?_
  rw [operandsOf_intercalate hb (fun p hp hc => (hparts p hp _ hc).1 rfl) hnonblank]
  exact literals_eq_none ⟨_, List.mem_map_of_mem ho, hnone⟩

/-! From the line of the assembler to the command. -/

theorem literalWf_iff {n : Nat} : literalWf n = true ↔ n < 2 ^ 64 := by simp [literalWf]

/-- R63: the assembler takes the well-formed lines and no other. -/
theorem assemble_ok_iff (a : Asm) : a.wf = true ↔ ∃ i, assemble a = .ok i := by
  unfold assemble
  split_ifs with hwf <;> cases a <;> simpa using hwf

section
variable {n : Nat}

theorem assemble_init {k0 k1 : Nat} (h0 : k0 < 2 ^ 64) (h1 : k1 < 2 ^ 64) :
    assemble (.init k0 k1) = .ok (.init (BitVec.ofNat 64 k0) (BitVec.ofNat 64 k1)) :=
  if_pos (Bool.and_eq_true_iff.2 ⟨literalWf_iff.2 h0, literalWf_iff.2 h1⟩)

theorem assemble_init_wide {k0 k1 : Nat} (h : 2 ^ 64 ≤ k0 ∨ 2 ^ 64 ≤ k1) :
    assemble (.init k0 k1) = .error .literalTooWide :=
  if_neg (by simp only [Asm.wf, Bool.and_eq_true, literalWf_iff]; omega)

theorem assemble_ad (h : n < 2 ^ 64) : assemble (.ad n) = .ok (.ad (BitVec.ofNat 64 n) 0) :=
  if_pos (literalWf_iff.2 h)

theorem assemble_enc (h : n < 2 ^ 64) : assemble (.enc n) = .ok (.enc (BitVec.ofNat 64 n) 0) :=
  if_pos (literalWf_iff.2 h)

theorem assemble_dec (h : n < 2 ^ 64) : assemble (.dec n) = .ok (.dec (BitVec.ofNat 64 n) 0) :=
  if_pos (literalWf_iff.2 h)

theorem assemble_block_wide (h : 2 ^ 64 ≤ n) :
    ∀ a ∈ [Asm.ad n, .enc n, .dec n], assemble a = .error .literalTooWide := by
  have hwide : ¬ literalWf n = true := fun hn => absurd (literalWf_iff.1 hn) h.not_gt
  simp only [List.forall_mem_cons, List.not_mem_nil, false_implies, implies_true, and_true]
  exact ⟨if_neg hwide, if_neg hwide, if_neg hwide⟩

theorem assemble_cmd (h : 8 ≤ n) (h' : n ≤ 15) : assemble (.cmd n) = .ok (instrOf (BitVec.ofNat 4 n) 0 0) :=
  if_pos (by simp [Asm.wf, h, h'])

theorem assemble_cmd_defined (h : n < 8 ∨ 15 < n) : assemble (.cmd n) = .error .notReserved :=
  if_neg (by simp only [Asm.wf, Bool.and_eq_true, decide_eq_true_eq]; omega)

end

theorem toNat_ofNat_word {n : Nat} (h : n < 2 ^ 64) : (BitVec.ofNat 64 n).toNat = n := by
  rw [BitVec.toNat_ofNat, Nat.mod_eq_of_lt h]

end Sys2Proof.Machine

namespace Sys2Proof.Proofs
open Sys2Proof.Machine

/-- Settles O6: a line's code is a word and the text after it; the word selects the form, and the text splits at its
commas into parts, each a literal with blanks around it or not. -/
theorem assemblerPlacesOperands : Obligations.AssemblerPlacesOperands := by
  unfold Obligations.AssemblerPlacesOperands
  intro blank lower digit value forms
  have hforms : forms = asmForms := rfl
  have hblank : blank = fun c => isBlank c = true := funext fun c => propext isBlank_iff.symm
  have hdigit : digit = fun c => c ∈ hexChars := rfl
  have hvalue : value = hexValue := rfl
  clear_value forms value digit lower blank
  subst forms value digit blank
  refine ⟨?comment, ?blanks, rfl, ?mnemonic, ?operands, ?badLiteral, ?unknown, assemble_ok_iff, ?init,
    fun k0 k1 => assemble_init_wide, ?blocks, fun n => assemble_block_wide, ⟨rfl, rfl, rfl, rfl⟩, ?cmd,
    fun n => assemble_cmd_defined⟩
  case comment => exact fun line rest => parseLine_congr (congrArg trim (codeOf_comment line rest))
  case blanks =>
    intro b line b' h
    obtain ⟨hb, hb'⟩ := List.forall_mem_append.1 h
    exact parseLine_blanks hb hb' line
  case mnemonic =>
    intro form hform
    rw [parseLine_mnemonic hform]
    cases form.2 [] <;> rfl
  case operands =>
    intro form hform b operands hne hb hops hwf
    refine (parseLine_operands hform hne hb hops hwf).trans ?_
    cases form.2 (operands.map fun o => hexValue o.2.1) <;> rfl
  case badLiteral =>
    rintro form hform b parts hne hb hparts ⟨c, hc, hcb⟩ ⟨o, ho, hbad⟩
    refine parseLine_badLiteral hform hne hb hparts ⟨c, hc, by simpa using hcb⟩ ⟨o, ho, ?_⟩
    exact Option.eq_none_iff_forall_ne_some.2 fun n hn => hbad (exists_of_literal_trim hn)
  case unknown =>
    intro word rest hne hword hforms hrest
    rw [parseLine_word hne (fun c hc => by simpa using hword c hc) hrest, readForm_unknown hforms]
  case init => exact fun k0 k1 h0 h1 => ⟨_, assemble_init h0 h1, rfl, toNat_ofNat_word h0, toNat_ofNat_word h1⟩
  case blocks =>
    exact fun n h => ⟨⟨_, assemble_ad h, rfl, toNat_ofNat_word h, rfl⟩,
      ⟨_, assemble_enc h, rfl, toNat_ofNat_word h, rfl⟩, ⟨_, assemble_dec h, rfl, toNat_ofNat_word h, rfl⟩⟩
  case cmd =>
    intro n h h'
    obtain ⟨hop, hd0, hd1⟩ := Laws.instrOf_fields (BitVec.ofNat 4 n) 0 0
    refine ⟨_, assemble_cmd h h', ?_, hd0, hd1⟩
    rw [hop, BitVec.toNat_ofNat, Nat.mod_eq_of_lt (by omega)]

end Sys2Proof.Proofs

/-! The permutation engine part by part (40_permutation.md): the index and the constant of a round, the columns of the
default substitution layer, the bits of the diffusion layer, and that each part, so the whole, is a bijection. -/

namespace Sys2Proof.Machine

/-! The constants (R78, R79). -/

/-- R78: the index fits its 4 bits. -/
theorem idx_val {rounds : Rounds} {r : Nat} (h : r < rounds.count) : (idx rounds r).val = 12 - rounds.count + r := by
  refine Nat.mod_eq_of_lt ?_
  cases rounds <;> simp only [Rounds.count] at h ⊢ <;> omega

/-- R62, R78: the short permutation leaves out the first six constants. -/
theorem twelve_sub_count (rounds : Rounds) : 12 - rounds.count = if rounds.select = 0 then 6 else 0 := by
  cases rounds <;> rfl

/-- R78: no round uses the four entries of the ROM above index 11. -/
theorem idx_val_le {rounds : Rounds} {r : Nat} (h : r < rounds.count) : (idx rounds r).val ≤ 11 := by
  have hcount : rounds.count ≤ 12 := by cases rounds <;> decide
  rw [idx_val h]
  omega

/-- R26: the constants of a permutation, in the order of its rounds. -/
def constantsOf (rounds : Rounds) : List Word := (List.range rounds.count).map fun r => rc (idx rounds r)

/-- R76, R86: the permutation is its constants folded into the state, one round each. -/
theorem permute_eq_foldl_constantsOf (c : SubstChoice) (rounds : Rounds) (S : Sponge) :
    permute c rounds S =
      (constantsOf rounds).foldl (fun S k => pL (substLayer c { S with s2 := S.s2 ^^^ k })) S := by
  rw [constantsOf, List.foldl_map]
  rfl

theorem constantsOf_short : constantsOf .short = [0x96, 0x87, 0x78, 0x69, 0x5a, 0x4b] := rfl

theorem constantsOf_long :
    constantsOf .long = [0xf0, 0xe1, 0xd2, 0xc3, 0xb4, 0xa5, 0x96, 0x87, 0x78, 0x69, 0x5a, 0x4b] := rfl

/-- R26: a constant is one byte, zero-extended. -/
theorem rc_getLsbD_high (i : Fin 16) {j : Nat} (hj : 8 ≤ j) : (rc i).getLsbD j = false := by
  have hbyte : (rc i).toNat < 2 ^ 8 := by revert i; decide
  exact Nat.testBit_lt_two_pow (hbyte.trans_le (Nat.pow_le_pow_right two_pos hj))

/-- R79: only bits 7:0 of `S[2]` can change. -/
theorem pC_s2_getLsbD_high (S : Sponge) (i : Fin 16) {j : Nat} (hj : 8 ≤ j) :
    (pC S i).s2.getLsbD j = S.s2.getLsbD j := by
  simp [pC, rc_getLsbD_high i hj]

/-! The columns of the default substitution layer (R83). -/

/-- R83: `SBOX5`. -/
def sbox5 : List Nat :=
  [0x04, 0x0b, 0x1f, 0x14, 0x1a, 0x15, 0x09, 0x02, 0x1b, 0x05, 0x08, 0x12, 0x1d, 0x03, 0x06, 0x1c, 0x1e, 0x13, 0x07,
   0x0e, 0x00, 0x0d, 0x11, 0x18, 0x10, 0x0c, 0x01, 0x19, 0x16, 0x0a, 0x0f, 0x17]

/-- R83: the number a column of five bits stands for, the bit of `S[0]` the most significant. -/
def columnValue (a b c d e : Bool) : Nat := a.toNat * 16 + b.toNat * 8 + c.toNat * 4 + d.toNat * 2 + e.toNat

theorem sbox5_count : ∀ v : Nat, v < 32 → sbox5.count v = 1 := by decide

/-- R82, R83: what the lines of the layer do to one column is the entry of the table. -/
theorem sbox5_columnValue (a b c d e : Bool) :
    let x0 := (a ^^ e) ^^ (!b && (c ^^ b)); let x1 := b ^^ (!(c ^^ b) && d); let x2 := (c ^^ b) ^^ (!d && (e ^^ d))
    let x3 := d ^^ (!(e ^^ d) && (a ^^ e)); let x4 := (e ^^ d) ^^ (!(a ^^ e) && b)
    sbox5[columnValue a b c d e]? = some (columnValue (x0 ^^ x4) (x1 ^^ x0) (!x2) (x3 ^^ x2) x4) := by
  revert a b c d e
  decide

/-- R83: column `j` of the default layer's result is the entry of the table for column `j` of its input. -/
theorem substDefault_column (S : Sponge) {j : Nat} (hj : j < 64) :
    let T := substDefault S
    sbox5[columnValue (S.s0.getLsbD j) (S.s1.getLsbD j) (S.s2.getLsbD j) (S.s3.getLsbD j) (S.s4.getLsbD j)]? =
      some (columnValue (T.s0.getLsbD j) (T.s1.getLsbD j) (T.s2.getLsbD j) (T.s3.getLsbD j) (T.s4.getLsbD j)) := by
  intro T
  obtain ⟨h0, h1, h2, h3, h4⟩ := substDefault_getLsbD S j hj
  rw [h0, h1, h2, h3, h4]
  exact sbox5_columnValue ..

/-! The bits of the diffusion layer (R84). -/

theorem word_one_shiftLeft_getLsbD {k i : Nat} (hi : i < 64) : ((1 <<< k : ℕ) : Word).getLsbD i = decide (i = k) := by
  rw [BitVec.natCast_eq_ofNat, BitVec.getLsbD_ofNat, Nat.one_shiftLeft, Nat.testBit_two_pow]
  simp [hi, eq_comm]

section
variable {a b : Nat} (ha : a < 64) (hb : b < 64)
include ha hb

/-- R84: bit `j` of a word after the layer. -/
theorem diffuse_getLsbD (w : Word) {j : Nat} (hj : j < 64) :
    (diffuse a b w).getLsbD j = ((w.getLsbD j ^^ w.getLsbD ((j + a) % 64)) ^^ w.getLsbD ((j + b) % 64)) := by
  simp only [diffuse, BitVec.getLsbD_xor, ror64_getLsbD w a j ha hj, ror64_getLsbD w b j hb hj]

/-- R84: rotations by two different amounts, neither of them 0, put a set bit at three different positions. -/
theorem diffuse_one_shiftLeft_getLsbD (ha0 : 0 < a) (hb0 : 0 < b) (hab : a ≠ b) {k j : Nat} (hk : k < 64)
    (hj : j < 64) :
    (diffuse a b (1 <<< k : ℕ)).getLsbD j = decide (j = k ∨ j = (k + 64 - a) % 64 ∨ j = (k + 64 - b) % 64) := by
  have hlt (n : Nat) : n % 64 < 64 := Nat.mod_lt _ (by decide)
  have hrot (n : Nat) (hn : n < 64) : (j + n) % 64 = k ↔ j = (k + 64 - n) % 64 := by omega
  have hka : (k + 64 - a) % 64 ≠ k := by omega
  have hkb : (k + 64 - b) % 64 ≠ k := by omega
  have habk : (k + 64 - a) % 64 ≠ (k + 64 - b) % 64 := by omega
  rw [diffuse_getLsbD ha hb _ hj, word_one_shiftLeft_getLsbD hj, word_one_shiftLeft_getLsbD (hlt _),
    word_one_shiftLeft_getLsbD (hlt _)]
  simp only [hrot a ha, hrot b hb]
  grind

/-- R80 (e): doing a word of the layer twice doubles both rotations, as the bits met twice cancel. -/
theorem diffuse_diffuse (w : Word) : diffuse a b (diffuse a b w) = diffuse (2 * a % 64) (2 * b % 64) w := by
  have hlt (n : Nat) : n % 64 < 64 := Nat.mod_lt _ (by decide)
  apply BitVec.eq_of_getLsbD_eq
  intro j hj
  have haa : ((j + a) % 64 + a) % 64 = (j + 2 * a % 64) % 64 := by omega
  have hbb : ((j + b) % 64 + b) % 64 = (j + 2 * b % 64) % 64 := by omega
  have hab : ((j + a) % 64 + b) % 64 = ((j + b) % 64 + a) % 64 := by omega
  rw [diffuse_getLsbD ha hb _ hj, diffuse_getLsbD ha hb _ hj, diffuse_getLsbD ha hb _ (hlt _),
    diffuse_getLsbD ha hb _ (hlt _), diffuse_getLsbD (hlt _) (hlt _) _ hj, haa, hbb, hab]
  generalize w.getLsbD j = x, w.getLsbD ((j + a) % 64) = y, w.getLsbD ((j + b) % 64) = z,
    w.getLsbD (((j + b) % 64 + a) % 64) = yz, w.getLsbD ((j + 2 * a % 64) % 64) = yy,
    w.getLsbD ((j + 2 * b % 64) % 64) = zz
  revert x y z yz yy zz
  decide

/-- R80 (e): done `2 ^ n` times, a word of the layer rotates by `2 ^ n` times the amounts. -/
theorem diffuse_iterate (n : Nat) : (diffuse a b)^[2 ^ n] = diffuse (2 ^ n * a % 64) (2 ^ n * b % 64) := by
  have hlt (n : Nat) : n % 64 < 64 := Nat.mod_lt _ (by decide)
  induction n with
  | zero => simp [Nat.mod_eq_of_lt ha, Nat.mod_eq_of_lt hb]
  | succ n ih =>
    have hdouble (m : Nat) : 2 * (2 ^ n * m % 64) % 64 = 2 ^ (n + 1) * m % 64 := by
      rw [Nat.mul_mod_mod, ← mul_assoc, ← pow_succ']
    funext w
    calc (diffuse a b)^[2 ^ (n + 1)] w
        = (diffuse a b)^[2 ^ n] ((diffuse a b)^[2 ^ n] w) := by
          rw [pow_succ, mul_two, Function.iterate_add_apply]
      _ = diffuse (2 ^ (n + 1) * a % 64) (2 ^ (n + 1) * b % 64) w := by
          rw [ih, diffuse_diffuse (hlt _) (hlt _), hdouble, hdouble]

/-- R80 (e): 64 times over every rotation is by a multiple of 64, so a word of the layer undoes itself. -/
theorem diffuse_injective : Function.Injective (diffuse a b) := by
  have hperiod (w : Word) : (diffuse a b)^[63] (diffuse a b w) = w := by
    rw [← Function.iterate_succ_apply, show Nat.succ 63 = 2 ^ 6 from rfl, diffuse_iterate ha hb]
    simp [diffuse]
  exact Function.LeftInverse.injective hperiod

end

/-! Each part of a round is a bijection (R80 (e)). -/

/-- R80 (e): the exclusive-or with the constant undoes itself. -/
theorem pC_involutive (i : Fin 16) : Function.Involutive (pC · i) := fun S => by
  simp [pC]

theorem pL_injective : Function.Injective pL := by
  rintro ⟨s0, s1, s2, s3, s4⟩ ⟨t0, t1, t2, t3, t4⟩ h
  simp only [pL, Sponge.mk.injEq] at h ⊢
  obtain ⟨h0, h1, h2, h3, h4⟩ := h
  exact ⟨diffuse_injective (by decide) (by decide) h0, diffuse_injective (by decide) (by decide) h1,
    diffuse_injective (by decide) (by decide) h2, diffuse_injective (by decide) (by decide) h3,
    diffuse_injective (by decide) (by decide) h4⟩

theorem pL_bijective : Function.Bijective pL := Sponge.bijective_of_injective pL_injective

theorem round_bijective {c : SubstChoice} (hc : SubstBijective c) (i : Fin 16) : Function.Bijective (round c i) :=
  pL_bijective.comp (hc.comp (pC_involutive i).bijective)

/-- R80 (e): bijections done one after the other are one. -/
theorem foldl_bijective {α : Type} {f : α → Sponge → Sponge} (hf : ∀ a, Function.Bijective (f a)) (l : List α) :
    Function.Bijective fun S => l.foldl (fun S a => f a S) S := by
  induction l with
  | nil => exact Function.bijective_id
  | cons a l ih => exact ih.comp (hf a)

theorem permute_bijective {c : SubstChoice} (hc : SubstBijective c) (rounds : Rounds) :
    Function.Bijective (permute c rounds) :=
  foldl_bijective (fun r => round_bijective hc (idx rounds r)) (List.range rounds.count)

end Sys2Proof.Machine

/-! The statements about the permutation engine (40_permutation.md). -/

namespace Sys2Proof.Proofs
open Sys2Proof.Machine

/-- Settles O11: the state is finite, and each word's map is injective, its 64th power being the identity. -/
theorem diffusionBijective : Obligations.DiffusionBijective := pL_bijective

/-- Settles O12: a composition of rounds, each of them three bijections. -/
theorem permutationBijective : Obligations.PermutationBijective := fun _ rounds hc => permute_bijective hc rounds

/-- Settles O8: the constants are single bytes. -/
theorem constantInjectionTouchesLowByte : Obligations.ConstantInjectionTouchesLowByte :=
  ⟨fun S i _ => ⟨rfl, fun _ => pC_s2_getLsbD_high S i, rfl, rfl, rfl, rfl⟩, fun _ _ => idx_val_le, rfl⟩

/-- Settles O9: the layer's bits column by column, and the table checked for the 32 columns. -/
theorem defaultSubstitutionIsColumnBox : Obligations.DefaultSubstitutionIsColumnBox :=
  ⟨sbox5_count, rfl, substBijective_default, fun S _ => substDefault_column S⟩

/-- Settles O10: each word is `diffuse` with its row of R85's table. -/
theorem diffusionBitByBit : Obligations.DiffusionBitByBit := by
  refine ⟨fun S j hj => ?_, fun k j hk hj => ?_, by decide, by decide⟩
  · refine ⟨?_, ?_, ?_, ?_, ?_⟩ <;> exact diffuse_getLsbD (by decide) (by decide) _ hj
  · refine ⟨?_, ?_, ?_, ?_, ?_⟩ <;>
      exact diffuse_one_shiftLeft_getLsbD (by decide) (by decide) (by decide) (by decide) (by decide) hk hj

/-- Settles O7: the index by its definition, and the constants of the two permutations read off the ROM. -/
theorem permutationUsesConstantsInOrder : Obligations.PermutationUsesConstantsInOrder := by
  refine ⟨fun rounds r h => ⟨idx_val h, ?_⟩, fun c S => ?_, fun c S => ?_⟩
  · rw [idx_val h, twelve_sub_count]
  · rw [permute_eq_foldl_constantsOf, constantsOf_short]
  · rw [permute_eq_foldl_constantsOf, constantsOf_long]

end Sys2Proof.Proofs

/-! What the default substitution layer makes of the examples of 41_session.md. -/

namespace Sys2Proof.Machine

/-- R100: `P12(0)` of the default layer. -/
theorem permute_long_zero : permute .default .long .zero =
    ⟨0x78ea7ae5cfebb108, 0x9b9bfb8513b560f7, 0x6937f83e03d11a50, 0x3fe53f36f2c1178c, 0x045d648e4def12c9⟩ := by
  decide

/-- R103: the example, from the state INIT leaves with the key of R100. -/
theorem permute_short_example : permute .default .short
      ⟨0x78ea7ae5cfebb108 ^^^ 0x1122334455667788, 0x9b9bfb8513b560f7, 0x6937f83e03d11a50, 0x3ec67a517b6ada63,
        0xfa81de163bbb20d9⟩ =
    ⟨0xddc814bb086ac32c, 0x1922b1b4645e71c9, 0x202b6082e2e4b584, 0x24774cfbf3150180, 0x0260589b1dfe25a0⟩ := by
  decide

/-- R109, R115: the state of the example before FINAL, from what INIT leaves. -/
def beforeFinalExample : Sponge :=
  (sourceEncrypt .default true [0x0123456789abcdef]
    (sourceAbsorb .default [] (sourceInitialize .default ⟨0x0123456789abcdef, 0xfedcba9876543210⟩))).1

theorem beforeFinalExample_eq : beforeFinalExample =
    ⟨0x79c93f8246407ce7, 0x9b9bfb8513b560f7, 0x6937f83e03d11a50, 0x3ec67a517b6ada63, 0xfa81de163bbb20d8⟩ := by
  have hinit : sourceInitialize .default ⟨0x0123456789abcdef, 0xfedcba9876543210⟩ =
      ⟨0x78ea7ae5cfebb108, 0x9b9bfb8513b560f7, 0x6937f83e03d11a50, 0x3ec67a517b6ada63, 0xfa81de163bbb20d9⟩ := by
    rw [sourceInitialize, permute_long_zero]
    decide
  rw [beforeFinalExample, hinit]
  decide

/-- R115: the tag of the example. -/
theorem tag_example : sourceFinalize .default ⟨0x0123456789abcdef, 0xfedcba9876543210⟩ beforeFinalExample =
    ⟨0x18c45f48e4064a15, 0xafc4eeb7daecdc21, 0x687250c1ebdcf79a, 0xff6d68e37cc0a9e6, 0xf425e23823976c17⟩ := by
  rw [beforeFinalExample_eq]
  decide

end Sys2Proof.Machine

/-! The phase table (41_session.md R121) against the two halves of `exec`: where a command is legal and where it is
not. -/

namespace Sys2Proof.Machine
open Sys2Proof.Safety

theorem phaseTable_of_legal {i : Instr} {s : State} (h : legal i s.phase = true) :
    phaseTable i s.phase = .ok (bodyOf i s).phase := by
  cases i <;> cases hp : s.phase <;> simp [legal, hp] at h <;> simp [phaseTable, cells, bodyOf, hp]

theorem phaseTable_of_illegal {i : Instr} {ph : Phase} (h : legal i ph = false) :
    phaseTable i ph = .error (if reserved i then .errInvalid else .errPhase) := by
  cases i <;> cases ph <;> simp [legal] at h <;> rfl

/-- R121: the phase after a command, a rejected one included. -/
def nextPhase (i : Instr) (ph : Phase) : Phase :=
  match phaseTable i ph with
  | .ok ph' => ph'
  | .error _ => ph

theorem exec_phase {i : Instr} {s t : State} (h : exec i s = .next t) : t.phase = nextPhase i s.phase := by
  obtain ⟨hl, rfl⟩ | ⟨hl, rfl⟩ := exec_cases h
  · rw [nextPhase, phaseTable_of_legal hl]
  · rw [nextPhase, phaseTable_of_illegal hl, reject_phase]

/-- R123: a legal command leaves what its body does. -/
theorem eq_bodyOf_of_legal {i : Instr} {s t : State} (hl : legal i s.phase = true) (h : exec i s = .next t) :
    t = bodyOf i s := by
  cases (exec_of_legal hl).symm.trans h
  rfl

/-- R140: and so does a command that answers OK. -/
theorem eq_bodyOf_of_ok {i : Instr} {s t : State} (h : exec i s = .next t) (hok : t.rsp.status = .ok) :
    t = bodyOf i s :=
  eq_bodyOf_of_legal ((exec_status_ok_iff h).1 hok) h

/-- R121: a message command of a begun message meets the state `P6` leaves. -/
theorem messageState_of_begun {dir : Phase} {s : State} (h : s.phase = dir) :
    messageState dir s = permute s.subst .short s.S := if_pos h

end Sys2Proof.Machine

namespace Sys2Proof.Proofs
open Sys2Proof.Machine Sys2Proof.Safety

/-- Settles O24: the table agrees with `exec` in its legal and in its illegal cells. -/
theorem phaseTransitionTable : Obligations.PhaseTransitionTable := by
  intro i s
  refine ⟨_, exec_eq i s, ?_, ?_, ?_, fun hmarked => ?_⟩
  · intro ph hcell
    cases hl : legal i s.phase with
    | true =>
      rw [phaseTable_of_legal hl] at hcell
      cases hcell
      exact ⟨rfl, bodyOf_status hl⟩
    | false => cases (phaseTable_of_illegal hl).symm.trans hcell
  · intro code hcell
    cases hl : legal i s.phase with
    | true => cases (phaseTable_of_legal hl).symm.trans hcell
    | false =>
      rw [phaseTable_of_illegal hl] at hcell
      cases hcell
      exact ⟨rfl, rfl⟩
  · cases hl : legal i s.phase with
    | true => simp [phaseTable_of_legal hl]
    | false => simp [phaseTable_of_illegal hl]
  · obtain ⟨hop, hdir⟩ : (i.opcode = 0x4 ∨ i.opcode = 0x5) ∧ s.phase = directionOf i.opcode := by
      obtain ⟨hi, hp⟩ | ⟨hi, hp⟩ := hmarked
      · exact ⟨.inl hi, by rw [hi, hp]; rfl⟩
      · exact ⟨.inr hi, by rw [hi, hp]; rfl⟩
    obtain ⟨c, hS⟩ := exec_message_S (exec_eq i s) hop
    rw [hS, messageState_of_begun hdir]
    rfl

/-- Settles O30: AD in INITIALIZED and AD rejected, with either key. -/
theorem adLeavesKeyAndReturnsNothing : Obligations.AdLeavesKeyAndReturnsNothing := by
  intro d0 d1 s
  cases hl : legal (.ad d0 d1) s.phase with
  | true => exact ⟨_, exec_of_legal hl, rfl, rfl, rfl, fun _ => exec_of_legal hl⟩
  | false => exact ⟨_, exec_eq_rejected hl rfl, rfl, rfl, rfl, fun _ => exec_eq_rejected hl rfl⟩

/-- Settles O32: an accepted command is its body. -/
theorem rateHoldsCiphertext : Obligations.RateHoldsCiphertext := by
  intro d0 d1 s t
  refine ⟨fun h hok => ?_, fun h hok => ?_⟩
  · obtain rfl := eq_bodyOf_of_ok h hok
    simp [bodyOf]
  · obtain rfl := eq_bodyOf_of_ok h hok
    simp [bodyOf]

/-- Settles O34: the run of the AD commands folds the absorption over the blocks. -/
theorem absorbsInOrder : Obligations.AbsorbsInOrder := by
  intro ads s hp
  obtain ⟨t, hrun, hS, hK, hphase⟩ := runCommands_ad ads hp
  exact ⟨t, _, hrun, hS, hphase, hK, rfl⟩

/-- Settles O35: the two blocks meet the same state, and the block is xored twice with its rate word. -/
theorem encryptDecryptSymmetric : Obligations.EncryptDecryptSymmetric := by
  rintro p d1 s e (⟨hp, rfl⟩ | ⟨hp, rfl⟩)
  · refine ⟨_, _, exec_of_legal (by rw [hp]; rfl), exec_of_legal (by rw [hp]; rfl), ?_⟩
    simp [bodyOf, encBody_eq, decBody_eq, messageState, hp]
  · refine ⟨_, _, exec_of_legal (by rw [hp]; rfl), exec_of_legal rfl, ?_⟩
    simp [bodyOf, encBody_eq, decBody_eq, messageState, hp]

end Sys2Proof.Proofs

/-! Facts about whole runs, each by one induction: the substitution layer, an invariant of every command, and that two
runs from one session answer alike (41_session.md R101; 60_exceptions.md R146). -/

namespace Sys2Proof.Machine
open Sys2Proof.Safety

theorem runCommands_keeps_subst {is : List Instr} {s t : State} {rs : List Response}
    (h : runCommands is s = some (t, rs)) : t.subst = s.subst := by
  induction is generalizing s rs with
  | nil =>
    obtain ⟨rfl, rfl⟩ : s = t ∧ [] = rs := by simpa [runCommands] using h
    rfl
  | cons i is ih =>
    obtain ⟨u, qs, hexec, hrest, rfl⟩ := runCommands_cons_inv h
    have hfirst := exec_keeps_subst hexec
    exact (ih hrest).trans hfirst

/-- R174: what every command of a list keeps holds after the run, and what then holds of each response holds of all. -/
theorem runCommands_invariant {P : State → Prop} {Q : Instr → Response → Prop} {is : List Instr}
    (hstep : ∀ i ∈ is, ∀ s t, P s → exec i s = .next t → P (takeResponse t) ∧ Q i t.rsp) {s : State} (hs : P s) :
    ∃ t rs, runCommands is s = some (t, rs) ∧ P t ∧ rs.length = is.length ∧ ∀ p ∈ is.zip rs, Q p.1 p.2 := by
  induction is generalizing s with
  | nil => exact ⟨s, [], rfl, hs, rfl, by simp⟩
  | cons i is ih =>
    obtain ⟨hfirst, hrest⟩ := List.forall_mem_cons.1 hstep
    obtain ⟨hP, hQ⟩ := hfirst s _ hs (exec_eq i s)
    obtain ⟨t, rs, hrun, ht, hlen, hQs⟩ := ih hrest hP
    exact ⟨t, _, runCommands_cons (exec_eq i s) hrun, ht, congrArg (· + 1) hlen, List.forall_mem_cons.2 ⟨hQ, hQs⟩⟩

/-- R146: the session and the substitution layer, all that the session commands compute from. -/
structure SameSession (s e : State) : Prop where
  session : sessionOf e = sessionOf s
  subst : e.subst = s.subst

theorem sameSession_iff {s e : State} :
    SameSession s e ↔ e.S = s.S ∧ e.K = s.K ∧ e.phase = s.phase ∧ e.subst = s.subst := by
  refine ⟨fun h => ?_, fun ⟨hS, hK, hp, hsub⟩ => ⟨by simp [sessionOf, hS, hK, hp], hsub⟩⟩
  obtain ⟨hS, hK, hp⟩ : e.S = s.S ∧ e.K = s.K ∧ e.phase = s.phase := by simpa [sessionOf] using h.session
  exact ⟨hS, hK, hp, h.subst⟩

theorem SameSession.symm {s e : State} (h : SameSession s e) : SameSession e s := ⟨h.session.symm, h.subst.symm⟩

theorem SameSession.trans {s e f : State} (h : SameSession s e) (h' : SameSession e f) : SameSession s f :=
  ⟨h'.session.trans h.session, h'.subst.trans h.subst⟩

/-- R45 (4): taking a response leaves the session as it is. -/
theorem SameSession.takeResponse_left {s e : State} (h : SameSession s e) : SameSession (takeResponse s) e :=
  ⟨h.session, h.subst⟩

theorem messageState_congr {s e : State} (h : SameSession s e) (dir : Phase) :
    messageState dir e = messageState dir s := by
  obtain ⟨hS, -, hp, hsub⟩ := sameSession_iff.1 h
  simp only [messageState, hS, hp, hsub]

/-- R146: what a legal command leaves of the session depends on the session alone. -/
theorem bodyOf_sameSession {i : Instr} {s e : State} (h : SameSession s e) (hl : legal i s.phase = true) :
    SameSession (bodyOf i s) (bodyOf i e) := by
  obtain ⟨hS, hK, hp, hsub⟩ := sameSession_iff.1 h
  have hlayer : (bodyOf i e).subst = (bodyOf i s).subst := by
    rw [exec_keeps_subst (exec_of_legal (hp ▸ hl)), exec_keeps_subst (exec_of_legal hl), hsub]
  refine sameSession_iff.2 ⟨?_, ?_, ?_, hlayer⟩ <;> cases i <;>
    simp [bodyOf, messageState_congr h, hS, hK, hp, hsub]

/-- R131, R146: and so does its answer, that of STATUS apart. -/
theorem bodyOf_rsp_congr {i : Instr} {s e : State} (h : SameSession s e) (hl : legal i s.phase = true)
    (hi : readsNoStatus i) : (bodyOf i e).rsp = (bodyOf i s).rsp := by
  obtain ⟨hS, hK, -, hsub⟩ := sameSession_iff.1 h
  cases i <;> simp [readsNoStatus, Instr.opcode, legal] at hi hl <;>
    simp [bodyOf, finalBody_rsp, messageState_congr h, hS, hK, hsub]

/-- R101, R146: one list of commands but STATUS, from two states of one session, is answered alike. -/
theorem runCommands_sameSession {is : List Instr} {s e : State} (h : SameSession s e)
    (his : ∀ i ∈ is, readsNoStatus i) :
    ∃ t u rs, runCommands is s = some (t, rs) ∧ runCommands is e = some (u, rs) ∧ SameSession t u := by
  induction is generalizing s e with
  | nil => exact ⟨s, e, [], rfl, rfl, h⟩
  | cons i is ih =>
    obtain ⟨hi, his⟩ := List.forall_mem_cons.1 his
    obtain ⟨v, w, hv, hw, hvw, hrsp⟩ : ∃ v w, exec i s = .next v ∧ exec i e = .next w ∧ SameSession v w ∧
        w.rsp = v.rsp := by
      obtain ⟨-, -, hp, -⟩ := sameSession_iff.1 h
      refine ⟨_, _, exec_eq i s, exec_eq i e, ?_⟩
      rw [hp]
      split
      case isTrue hl => exact ⟨bodyOf_sameSession h hl, bodyOf_rsp_congr h hl hi⟩
      case isFalse => exact ⟨⟨h.session, h.subst⟩, rfl⟩
    obtain ⟨t, u, rs, ht, hu, htu⟩ := ih (s := takeResponse v) (e := takeResponse w) ⟨hvw.session, hvw.subst⟩ his
    exact ⟨t, u, _, runCommands_cons hv ht, hrsp ▸ runCommands_cons hw hu, htu⟩

end Sys2Proof.Machine

/-! A session of the host, from INIT to FINAL: what it leaves and what it answers, in either direction (41_session.md
R100 to R120), and that the decrypting one undoes the encrypting one (R113, R114). -/

namespace Sys2Proof.Machine

/-- R120: the commands before the message: INIT, the blocks of associated data, and AD_END. -/
def opening (k0 k1 : Word) (ads : List Word) : List Instr :=
  [Instr.init k0 k1] ++ ads.map (fun a => Instr.ad a 0) ++ [Instr.adEnd 0 0]

/-- R120: the commands of a session with the message commands `message`. -/
def session (k0 k1 : Word) (ads : List Word) (message : List Instr) : List Instr :=
  opening k0 k1 ads ++ message ++ [Instr.final 0 0]

theorem legal_init {ph : Phase} (h : ph = .uninit ∨ ph = .finalized) (d0 d1 : Word) :
    legal (.init d0 d1) ph = true := by
  obtain rfl | rfl := h <;> rfl

/-- R115: FINAL is legal after a message in a direction that allows it, of no block too. -/
theorem legal_final_afterMessage {dir ph : Phase} {xs : List Word} (hdir : legal (.final 0 0) dir = true)
    (hp : ph = if xs = [] then .absorbedAd else dir) : legal (.final 0 0) ph = true := by
  rw [hp]
  split
  · rfl
  · exact hdir

/-- R100, R104, R106: INIT, the blocks of associated data, and AD_END. -/
theorem runCommands_opening (k0 k1 : Word) (ads : List Word) {s : State}
    (hp : s.phase = .uninit ∨ s.phase = .finalized) :
    ∃ t, runCommands (opening k0 k1 ads) s = some (t, List.replicate (ads.length + 2) ⟨.ok, 0, 0⟩) ∧
      t.S = sourceAbsorb s.subst ads (sourceInitialize s.subst ⟨k0, k1⟩) ∧ t.K = ⟨k0, k1⟩ ∧ t.phase = .absorbedAd := by
  have hinit := runCommands_singleton (legal_init hp k0 k1)
  obtain ⟨t, hads, hS, hK, hphase⟩ := runCommands_ad ads (s := takeResponse (bodyOf (.init k0 k1) s)) rfl
  have hend : legal (.adEnd 0 0) t.phase = true := by rw [hphase]; rfl
  refine ⟨takeResponse (adEndBody t), ?_, congrArg Sponge.flipDomain hS, hK, rfl⟩
  rw [List.replicate_succ', List.replicate_succ]
  exact runCommands_append (runCommands_append hinit hads) (runCommands_singleton hend)

section
variable {dir : Phase} {cmd : Word → Instr} {rate : Word → Sponge → Word}
  {source : SubstChoice → Bool → List Word → Sponge → Sponge × List Word}

/-- R118: a whole session in one direction. -/
theorem MessageOperation.runCommands_session (op : MessageOperation dir cmd rate source)
    (hfinal : legal (.final 0 0) dir = true) (k0 k1 : Word) (ads xs : List Word) {s : State}
    (hp : s.phase = .uninit ∨ s.phase = .finalized) :
    let r := source s.subst true xs (sourceAbsorb s.subst ads (sourceInitialize s.subst ⟨k0, k1⟩))
    let T := sourceFinalize s.subst ⟨k0, k1⟩ r.1
    ∃ t, runCommands (session k0 k1 ads (xs.map cmd)) s =
        some (t, List.replicate (ads.length + 2) ⟨.ok, 0, 0⟩ ++ r.2.map (fun y => ⟨.ok, y, 0⟩) ++ [⟨.ok, T.s3, T.s4⟩]) ∧
      t.S = T ∧ t.K = ⟨k0, k1⟩ ∧ t.phase = .finalized := by
  obtain ⟨u, hopening, huS, huK, hup⟩ := runCommands_opening k0 k1 ads hp
  have husub := runCommands_keeps_subst hopening
  obtain ⟨v, hmessage, hvS, hvK, hvp⟩ := op.run_eq xs (.inl hup)
  have hvsub := (runCommands_keeps_subst hmessage).trans husub
  have hl := legal_final_afterMessage hfinal (hvp.trans (by rw [hup]))
  simp only [hup, huS, husub, decide_true] at hmessage hvS
  have hT : (finalBody v).S = sourceFinalize s.subst ⟨k0, k1⟩ v.S := by
    rw [finalBody_S, hvsub, hvK, huK]
    rfl
  rw [hvS] at hT
  refine ⟨takeResponse (finalBody v), ?_, hT, hvK.trans huK, rfl⟩
  rw [← hT]
  exact runCommands_append (runCommands_append hopening hmessage) (runCommands_singleton hl)

/-- R109, R112: the first block of a message without associated data meets the words INIT leaves, whatever the key. -/
theorem MessageOperation.runCommands_firstBlock (op : MessageOperation dir cmd rate source) (k0 k1 x : Word) {s : State}
    (hp : s.phase = .uninit ∨ s.phase = .finalized) :
    ∃ t, runCommands [.init k0 k1, .adEnd 0 0, cmd x] s =
      some (t, [⟨.ok, 0, 0⟩, ⟨.ok, 0, 0⟩, ⟨.ok, x ^^^ (permute s.subst .long .zero).s0, 0⟩]) := by
  obtain ⟨u, hopening, huS, -, hup⟩ := runCommands_opening k0 k1 [] hp
  have hfirst : u.phase ≠ dir := by rw [hup]; exact op.dir_ne.symm
  have hblock := runCommands_singleton (op.legal_of x u.phase (.inl hup))
  rw [op.body_rsp, messageState_of_first hfirst, huS] at hblock
  exact ⟨_, runCommands_append hopening hblock⟩

end

/-- R113 block by block: decrypting the ciphertext blocks gives the plaintext blocks, and leaves the same state. -/
theorem sourceDecrypt_sourceEncrypt (c : SubstChoice) (first : Bool) (ps : List Word) (S : Sponge) :
    sourceDecrypt c first (sourceEncrypt c first ps S).2 S = ((sourceEncrypt c first ps S).1, ps) := by
  induction ps generalizing first S with
  | nil => rfl
  | cons p ps ih => simp [sourceEncrypt, sourceDecrypt, ih]

theorem sourceEncrypt_length (c : SubstChoice) (first : Bool) (ps : List Word) (S : Sponge) :
    (sourceEncrypt c first ps S).2.length = ps.length := by
  induction ps generalizing first S with
  | nil => rfl
  | cons p ps ih => simp [sourceEncrypt, ih]

end Sys2Proof.Machine

namespace Sys2Proof.Proofs
open Sys2Proof.Machine Sys2Proof.Safety

/-- Settles O36: the two sessions open alike, and the decrypting message undoes the encrypting one. -/
theorem sessionRoundTrip : Obligations.SessionRoundTrip := by
  intro k0 k1 ads ps s e hs he hsub
  obtain ⟨t, hencrypt, htS, htK, htp⟩ := encrypt_messageOperation.runCommands_session rfl k0 k1 ads ps hs
  obtain ⟨u, hdecrypt, huS, huK, hup⟩ := decrypt_messageOperation.runCommands_session rfl k0 k1 ads
    (sourceEncrypt s.subst true ps (sourceAbsorb s.subst ads (sourceInitialize s.subst ⟨k0, k1⟩))).2 he
  rw [hsub, sourceDecrypt_sourceEncrypt] at hdecrypt huS
  refine ⟨t, u, _, _, _, List.length_replicate, sourceEncrypt_length _ _ _ _, rfl, hencrypt, hdecrypt, ?_⟩
  simp [sessionOf, htS, htK, htp, huS, huK, hup]

/-- Settles O37: INIT overwrites the session from its operands, and what follows depends on the session alone. -/
theorem noNonceConsequences : Obligations.NoNonceConsequences := by
  refine ⟨fun k0 k1 s t hp h => ?_, fun k0 k1 p s hp => ⟨?_, fun hsub => ?_⟩, fun k0 k1 is s e hs he hsub his => ?_⟩
  · obtain rfl := eq_bodyOf_of_legal (legal_init hp k0 k1) h
    exact ⟨rfl, rfl, rfl⟩
  · obtain ⟨t, hrun⟩ := encrypt_messageOperation.runCommands_firstBlock k0 k1 p hp
    exact ⟨t, _, _, hrun⟩
  · rw [hsub]
    exact congrArg (fun S : Sponge => p ^^^ S.s0) permute_long_zero
  · have hopened : SameSession (takeResponse (initBody k0 k1 s)) (takeResponse (initBody k0 k1 e)) :=
      sameSession_iff.2 ⟨by simp [hsub], rfl, rfl, hsub⟩
    obtain ⟨t, u, rs, ht, hu, -⟩ := runCommands_sameSession hopened his
    exact ⟨t, u, ⟨.ok, 0, 0⟩ :: rs, runCommands_cons (exec_of_legal (legal_init hs k0 k1)) ht,
      runCommands_cons (exec_of_legal (legal_init he k0 k1)) hu⟩

end Sys2Proof.Proofs

/-! What the phase table allows within a session (41_session.md R108, R111, R121, R124), and the accepted commands of a
run, one by one. -/

namespace Sys2Proof.Machine
open Sys2Proof.Safety

/-- R108: without AD_END and CLEAR a command leaves INITIALIZED as it is. -/
theorem nextPhase_initialized {i : Instr} (hend : i.opcode ≠ 0x3) (hclear : i.opcode ≠ 0x7) :
    nextPhase i .initialized = .initialized := by
  cases i <;> simp [Instr.opcode] at hend hclear <;> rfl

/-- R111: without FINAL and CLEAR a command leaves the direction of a message as it is. -/
theorem nextPhase_message {i : Instr} {ph : Phase} (hp : ph = .encrypting ∨ ph = .decrypting) (hfinal : i.opcode ≠ 0x6)
    (hclear : i.opcode ≠ 0x7) : nextPhase i ph = ph := by
  obtain rfl | rfl := hp <;> cases i <;> simp [Instr.opcode] at hfinal hclear <;> rfl

/-- R124: only FINAL ends a session in FINALIZED. -/
theorem opcode_of_nextPhase_finalized {i : Instr} {ph : Phase} (h : nextPhase i ph = .finalized)
    (hp : ph ≠ .finalized) : i.opcode = 0x6 ∧ legal i ph = true := by
  cases i <;> cases ph <;> simp [nextPhase, phaseTable, cells] at h hp <;> exact ⟨rfl, rfl⟩

/-- R121, R124: the order of the phases within a session, the two directions apart. -/
def PhaseLe (ph ph' : Phase) : Prop := ph.code ≤ ph'.code ∧ ¬ (ph = .encrypting ∧ ph' = .decrypting)

theorem PhaseLe.refl (ph : Phase) : PhaseLe ph ph := by
  unfold PhaseLe
  cases ph <;> decide

theorem PhaseLe.trans {a b c : Phase} (h : PhaseLe a b) (h' : PhaseLe b c) : PhaseLe a c := by
  refine ⟨BitVec.le_trans h.1 h'.1, ?_⟩
  rintro ⟨rfl, rfl⟩
  cases b <;> simp [PhaseLe, Phase.code] at h h'

/-- R124: an accepted command other than INIT and CLEAR never takes the session back. -/
theorem phaseLe_nextPhase {i : Instr} {ph : Phase} (hi : legal i ph = true → i.opcode ≠ 0x1 ∧ i.opcode ≠ 0x7) :
    PhaseLe ph (nextPhase i ph) := by
  cases hl : legal i ph with
  | false => simpa [nextPhase, phaseTable_of_illegal hl] using PhaseLe.refl ph
  | true =>
    obtain ⟨hinit, hclear⟩ := hi hl
    cases i <;> cases ph <;> simp [legal, Instr.opcode] at hl hinit hclear <;>
      simp [PhaseLe, nextPhase, phaseTable, cells, Phase.code]

/-- R140: the accepted commands of a run are those legal where they run. -/
theorem acceptedOf_cons {i : Instr} {s t : State} (h : exec i s = .next t) (is : List Instr) :
    acceptedOf (i :: is) s = (if legal i s.phase = true then [i] else []) ++ acceptedOf is (takeResponse t) := by
  simp only [acceptedOf, h, exec_status_ok_iff h]

/-- R124: a run within a session never takes it back. -/
theorem runCommands_phaseLe {is : List Instr} {s t : State} {rs : List Response}
    (hacc : ∀ i ∈ acceptedOf is s, i.opcode ≠ 0x1 ∧ i.opcode ≠ 0x7) (h : runCommands is s = some (t, rs)) :
    PhaseLe s.phase t.phase := by
  induction is generalizing s rs with
  | nil =>
    obtain ⟨rfl, rfl⟩ : s = t ∧ [] = rs := by simpa [runCommands] using h
    exact .refl _
  | cons i is ih =>
    obtain ⟨u, qs, hexec, hrest, rfl⟩ := runCommands_cons_inv h
    rw [acceptedOf_cons hexec, List.forall_mem_append] at hacc
    obtain ⟨hi, hacc⟩ := hacc
    have hstep : PhaseLe s.phase u.phase := by
      rw [exec_phase hexec]
      exact phaseLe_nextPhase fun hl => hi i (by simp [hl])
    exact hstep.trans (ih (s := takeResponse u) hacc hrest)

end Sys2Proof.Machine

namespace Sys2Proof.Proofs
open Sys2Proof.Machine Sys2Proof.Safety

/-- Settles O39: every command of the run leaves INITIALIZED, where ENC, DEC and FINAL are illegal. -/
theorem absorptionCannotBeSkipped : Obligations.AbsorptionCannotBeSkipped := by
  intro is s hp his
  refine runCommands_invariant (P := fun s => s.phase = .initialized)
    (Q := fun i r => i.opcode = 0x4 ∨ i.opcode = 0x5 ∨ i.opcode = 0x6 → r = ⟨.errPhase, 0, 0⟩)
    (fun i hi s t hp h => ⟨?_, fun hop => ?_⟩) hp
  · obtain ⟨hend, hclear⟩ := his i hi
    rw [takeResponse_phase, exec_phase h, hp, nextPhase_initialized hend hclear]
  · obtain ⟨hl, hr⟩ : legal i s.phase = false ∧ reserved i = false := by
      rw [hp]
      cases i <;> simp [Instr.opcode] at hop <;> exact ⟨rfl, rfl⟩
    cases (exec_eq_rejected hl hr).symm.trans h
    rfl

/-- Settles O40: every command of the run leaves the direction, which decides between ENC and DEC. -/
theorem directionIsFixed : Obligations.DirectionIsFixed := by
  refine ⟨fun d0 d1 s t h hok => ?_, fun d0 d1 s t h hok => ?_, fun is s hp his => ?_⟩
  · obtain rfl := eq_bodyOf_of_ok h hok
    exact encBody_phase d0 s
  · obtain rfl := eq_bodyOf_of_ok h hok
    exact decBody_phase d0 s
  · refine runCommands_invariant (P := fun u => u.phase = s.phase)
      (Q := fun i r => (i.opcode = 0x4 → r.status = if s.phase = .encrypting then .ok else .errPhase) ∧
        (i.opcode = 0x5 → r.status = if s.phase = .encrypting then .errPhase else .ok))
      (fun i hi u t hu h => ⟨?_, fun hop => ?_, fun hop => ?_⟩) rfl
    · obtain ⟨hfinal, hclear⟩ := his i hi
      rw [takeResponse_phase, exec_phase h, hu, nextPhase_message hp hfinal hclear]
    · obtain ⟨d0, d1, rfl⟩ : ∃ d0 d1, i = .enc d0 d1 := exists_instrOf_of_opcode hop
      rw [exec_status_eq h, hu]
      obtain hp | hp := hp <;> rw [hp] <;> rfl
    · obtain ⟨d0, d1, rfl⟩ : ∃ d0 d1, i = .dec d0 d1 := exists_instrOf_of_opcode hop
      rw [exec_status_eq h, hu]
      obtain hp | hp := hp <;> rw [hp] <;> rfl

/-- Settles O41: the order of the phases by induction on the run, the rest command by command. -/
theorem sessionLifeCycle : Obligations.SessionLifeCycle := by
  refine ⟨fun is s t rs => runCommands_phaseLe, fun i s t h hi hok => ?_, fun i s t h ht hp => ?_, fun i s t h hi => ?_,
    fun s => ⟨rfl, rfl, rfl⟩⟩
  · have hl := (exec_status_ok_iff h).1 hok
    obtain ⟨d0, d1, rfl⟩ : ∃ d0 d1, i = .init d0 d1 := exists_instrOf_of_opcode hi
    obtain rfl := eq_bodyOf_of_legal hl h
    exact ⟨by simpa [legal] using hl, rfl⟩
  · rw [exec_phase h] at ht
    obtain ⟨hi, hl⟩ := opcode_of_nextPhase_finalized ht hp
    obtain ⟨d0, d1, rfl⟩ : ∃ d0 d1, i = .final d0 d1 := exists_instrOf_of_opcode hi
    obtain rfl := eq_bodyOf_of_legal hl h
    exact ⟨rfl, finalBody_rsp s⟩
  · cases (exec_of_opcode_clear hi s).symm.trans h
    exact ⟨rfl, rfl, rfl⟩

end Sys2Proof.Proofs

/-! The permutation calls of a command and of a run (41_session.md R120; 70_reset_and_hazards.md R172). -/

namespace Sys2Proof.Machine
open Sys2Proof.Safety

/-- R172: a legal command's state words are its own update around the call `permCall` names. -/
theorem bodyOf_madeCall {i : Instr} {s : State} (hl : legal i s.phase = true) :
    madeCall i s (bodyOf i s) (permCall i s.phase) := by
  cases i <;> simp only [madeCall, permCall, hl, if_true]
  case enc => by_cases hp : s.phase = .encrypting <;> simp [bodyOf, hp, messageState, beforeCall, afterCall]
  case dec => by_cases hp : s.phase = .decrypting <;> simp [bodyOf, hp, messageState, beforeCall, afterCall]
  all_goals rfl

/-- R172: the call of an accepted command, and the rounds it takes. -/
theorem exec_madeCall {i : Instr} {s t : State} {call : Option Rounds} (h : exec i s = .next t)
    (hl : legal i s.phase = true) (hcall : permCall i s.phase = call) :
    madeCall i s t call ∧ roundsRun i s.phase = (call.map Rounds.count).getD 0 := by
  obtain rfl := eq_bodyOf_of_legal hl h
  subst hcall
  refine ⟨bodyOf_madeCall hl, ?_⟩
  unfold roundsRun
  cases permCall i s.phase <;> rfl

/-- R120: a run whose every answer is OK makes just the calls `callsOf` lists. -/
theorem runMakes_callsOf {is : List Instr} {s t : State} {rs : List Response} (h : runCommands is s = some (t, rs))
    (hok : ∀ r ∈ rs, r.status = .ok) : runMakes is s (callsOf is s) := by
  induction is generalizing s rs with
  | nil => rfl
  | cons i is ih =>
    obtain ⟨u, qs, hexec, hrest, rfl⟩ := runCommands_cons_inv h
    obtain ⟨hi, hok⟩ := List.forall_mem_cons.1 hok
    obtain ⟨hmade, -⟩ := exec_madeCall hexec ((exec_status_ok_iff hexec).1 hi) rfl
    exact ⟨u, permCall i s.phase, callsOf is (takeResponse u), hexec, hi, hmade, by simp [callsOf, hexec], ih hrest hok⟩

/-- R50: the calls of a run of two parts. -/
theorem callsOf_append {is : List Instr} {s t : State} {rs : List Response} (h : runCommands is s = some (t, rs))
    (js : List Instr) : callsOf (is ++ js) s = callsOf is s ++ callsOf js t := by
  induction is generalizing s rs with
  | nil =>
    obtain ⟨rfl, rfl⟩ : s = t ∧ [] = rs := by simpa [runCommands] using h
    rfl
  | cons i is ih =>
    obtain ⟨u, qs, hexec, hrest, rfl⟩ := runCommands_cons_inv h
    simp [callsOf, hexec, ih hrest]

theorem callsOf_cons {i : Instr} {s : State} (hl : legal i s.phase = true) (is : List Instr) :
    callsOf (i :: is) s = (permCall i s.phase).toList ++ callsOf is (takeResponse (bodyOf i s)) := by
  simp [callsOf, exec_of_legal hl]

/-- R104: one short call per block of associated data. -/
theorem callsOf_ad (ads : List Word) {s : State} (hp : s.phase = .initialized) :
    callsOf (ads.map fun a => .ad a 0) s = List.replicate ads.length .short := by
  induction ads generalizing s with
  | nil => rfl
  | cons a ads ih =>
    have hl : legal (.ad a 0) s.phase = true := by rw [hp]; rfl
    have hcall : permCall (.ad a 0) s.phase = some .short := by rw [hp]; rfl
    rw [List.map_cons, callsOf_cons hl, hcall, ih (s := takeResponse (bodyOf (.ad a 0) s)) hp]
    rfl

/-- R120: one long call for INIT, then those of the associated data; AD_END makes none. -/
theorem callsOf_opening (k0 k1 : Word) (ads : List Word) {s : State} (hp : s.phase = .uninit ∨ s.phase = .finalized) :
    callsOf (opening k0 k1 ads) s = [Rounds.long] ++ List.replicate ads.length .short := by
  have hl := legal_init hp k0 k1
  have hinit := runCommands_singleton hl
  obtain ⟨t, hads, -, -, htp⟩ := runCommands_ad ads (s := takeResponse (bodyOf (.init k0 k1) s)) rfl
  have hend : legal (.adEnd 0 0) t.phase = true := by rw [htp]; rfl
  have hinitCall : permCall (.init k0 k1) s.phase = some .long := by simp [permCall, hl]
  have hendCall : permCall (.adEnd 0 0) t.phase = none := by simp [permCall]
  rw [opening, callsOf_append (runCommands_append hinit hads), callsOf_append hinit, callsOf_cons hl,
    callsOf_cons hend, hinitCall, hendCall, callsOf_ad ads (s := takeResponse _) rfl]
  simp [callsOf]

section
variable {dir : Phase} {cmd : Word → Instr} {rate : Word → Sponge → Word}
  {source : SubstChoice → Bool → List Word → Sponge → Sponge × List Word}

/-- R30: one short call per block of a message that has begun. -/
theorem MessageOperation.callsOf_begun (op : MessageOperation dir cmd rate source)
    (hcall : ∀ x, permCall (cmd x) dir = some .short) (xs : List Word) {s : State} (hp : s.phase = dir) :
    callsOf (xs.map cmd) s = List.replicate xs.length .short := by
  induction xs generalizing s with
  | nil => rfl
  | cons x xs ih =>
    rw [List.map_cons, callsOf_cons (op.legal_of x s.phase (.inr hp)), hp, hcall,
      ih (s := takeResponse _) (op.body_phase x s)]
    rfl

/-- R30: one short call per block of a message but the first. -/
theorem MessageOperation.callsOf_message (op : MessageOperation dir cmd rate source)
    (hfirst : ∀ x, permCall (cmd x) .absorbedAd = none) (hcall : ∀ x, permCall (cmd x) dir = some .short)
    (xs : List Word) {s : State} (hp : s.phase = .absorbedAd) :
    callsOf (xs.map cmd) s = List.replicate (xs.length - 1) .short := by
  cases xs with
  | nil => rfl
  | cons x xs =>
    rw [List.map_cons, callsOf_cons (op.legal_of x s.phase (.inl hp)), hp, hfirst,
      op.callsOf_begun hcall xs (s := takeResponse _) (op.body_phase x s)]
    rfl

/-- R120: the calls of a whole session, in order. -/
theorem MessageOperation.callsOf_session (op : MessageOperation dir cmd rate source)
    (hfirst : ∀ x, permCall (cmd x) .absorbedAd = none) (hcall : ∀ x, permCall (cmd x) dir = some .short)
    (hfinal : legal (.final 0 0) dir = true) (k0 k1 : Word) (ads xs : List Word) {s : State}
    (hp : s.phase = .uninit ∨ s.phase = .finalized) :
    callsOf (session k0 k1 ads (xs.map cmd)) s =
      [Rounds.long] ++ List.replicate ads.length .short ++ List.replicate (xs.length - 1) .short ++ [Rounds.long] := by
  obtain ⟨u, hopening, -, -, hup⟩ := runCommands_opening k0 k1 ads hp
  obtain ⟨v, hmessage, -, -, hvp⟩ := op.run_eq xs (.inl hup)
  have hl := legal_final_afterMessage hfinal (hvp.trans (by rw [hup]))
  have hfinalCall : permCall (.final 0 0) v.phase = some .long := by rw [permCall, if_pos hl]
  rw [session, callsOf_append (runCommands_append hopening hmessage), callsOf_append hopening,
    callsOf_opening k0 k1 ads hp, op.callsOf_message hfirst hcall xs hup, callsOf_cons hl, hfinalCall]
  rfl

/-- R118, R120: every command of a session is accepted, so these are the calls its commands make. -/
theorem MessageOperation.runMakes_session (op : MessageOperation dir cmd rate source)
    (hfinal : legal (.final 0 0) dir = true) (k0 k1 : Word) (ads xs : List Word) {s : State}
    (hp : s.phase = .uninit ∨ s.phase = .finalized) :
    runMakes (session k0 k1 ads (xs.map cmd)) s (callsOf (session k0 k1 ads (xs.map cmd)) s) := by
  obtain ⟨t, hrun, -⟩ := op.runCommands_session hfinal k0 k1 ads xs hp
  refine runMakes_callsOf hrun fun r hr => ?_
  simp only [List.mem_append, List.mem_replicate, List.mem_map, List.mem_singleton] at hr
  obtain (⟨-, rfl⟩ | ⟨y, -, rfl⟩) | rfl := hr <;> rfl

end

end Sys2Proof.Machine

namespace Sys2Proof.Proofs
open Sys2Proof.Machine Sys2Proof.Safety

/-- Settles O42: the call of a legal command is `permCall`'s, read off case by case, and a session's calls are those of
its parts. -/
theorem permutationCallsOfASession : Obligations.PermutationCallsOfASession := by
  refine ⟨fun i s t h => ⟨fun hi hl => ?_, fun hi hl => ?_, fun hi hp => ?_, fun hi hp hl => ?_, fun hi hl => ?_,
    fun hl => ?_⟩, fun k0 k1 ads ms dir s hp hdir => ?_⟩
  · obtain hi | hi := hi
    · obtain ⟨d0, d1, rfl⟩ : ∃ d0 d1, i = .init d0 d1 := exists_instrOf_of_opcode hi
      exact exec_madeCall h hl (if_pos hl)
    · obtain ⟨d0, d1, rfl⟩ : ∃ d0 d1, i = .final d0 d1 := exists_instrOf_of_opcode hi
      exact exec_madeCall h hl (if_pos hl)
  · obtain ⟨d0, d1, rfl⟩ : ∃ d0 d1, i = .ad d0 d1 := exists_instrOf_of_opcode hi
    exact exec_madeCall h hl (if_pos hl)
  · have hl : legal i s.phase = true := by
      rw [hp]
      cases i <;> simp [Instr.opcode] at hi <;> rfl
    refine exec_madeCall h hl ?_
    cases i <;> simp [Instr.opcode] at hi <;> simp [permCall, hp]
  · refine exec_madeCall h hl ?_
    cases i <;> simp [Instr.opcode] at hi <;> simp [legal, hp] at hl <;> simp [permCall, legal, hl]
  · refine exec_madeCall h hl ?_
    cases i <;> simp [Instr.opcode] at hi <;> simp [permCall]
  · obtain ⟨hl', -⟩ | ⟨-, rfl⟩ := exec_cases h
    · simp [hl] at hl'
    · exact ⟨rfl, by simp [roundsRun, permCall, hl]⟩
  · obtain rfl | rfl := hdir
    · have hcalls := encrypt_messageOperation.callsOf_session (fun _ => rfl) (fun _ => rfl) rfl k0 k1 ads ms hp
      exact ⟨hcalls ▸ encrypt_messageOperation.runMakes_session rfl k0 k1 ads ms hp, hcalls⟩
    · have hcalls := decrypt_messageOperation.callsOf_session (fun _ => rfl) (fun _ => rfl) rfl k0 k1 ads ms hp
      exact ⟨hcalls ▸ decrypt_messageOperation.runMakes_session rfl k0 k1 ads ms hp, hcalls⟩

end Sys2Proof.Proofs

/-! The accepted commands of a session as a run of their own (41_session.md R107): a rejected command and a STATUS leave
the session as it is, so the others alone, each legal where it runs, make the session's state. -/

namespace Sys2Proof.Machine
open Sys2Proof.Safety

/-- The commands of a list, each legal where it runs, take the first state to the second; responses are not taken, since
no session command reads one. -/
inductive LegalRun : List Instr → State → State → Prop where
  | nil (s : State) : LegalRun [] s s
  | cons {i : Instr} {is : List Instr} {s t : State} (hl : legal i s.phase = true) (h : LegalRun is (bodyOf i s) t) :
    LegalRun (i :: is) s t

/-- The accepted commands of a run, those of opcode STATUS left out (R107). -/
def sessionCommands (is : List Instr) (s : State) : List Instr := (acceptedOf is s).filter fun i => i.opcode != 0x0

theorem sessionCommands_cons {i : Instr} {s t : State} (h : exec i s = .next t) (is : List Instr) :
    sessionCommands (i :: is) s =
      (if legal i s.phase = true ∧ i.opcode ≠ 0x0 then [i] else []) ++ sessionCommands is (takeResponse t) := by
  rw [sessionCommands, acceptedOf_cons h, List.filter_append]
  by_cases hl : legal i s.phase = true <;> by_cases hi : i.opcode = 0x0 <;>
    simp [sessionCommands, List.filter_cons, hl, hi]

/-- R131, R146: a command that is rejected or a STATUS leaves the session as it is. -/
theorem exec_keeps_session {i : Instr} {s t : State} (h : exec i s = .next t)
    (hi : ¬ (legal i s.phase = true ∧ i.opcode ≠ 0x0)) : SameSession s t := by
  obtain ⟨hl, rfl⟩ | ⟨-, rfl⟩ := exec_cases h
  · have hstatus : i.opcode = 0x0 := by simpa [hl] using hi
    obtain ⟨d0, d1, rfl⟩ : ∃ d0 d1, i = .status d0 d1 := exists_instrOf_of_opcode hstatus
    exact ⟨rfl, rfl⟩
  · exact ⟨rfl, rfl⟩

/-- R107, R146: the session a run ends in is the one its session commands make. -/
theorem runCommands_legalRun {is : List Instr} {s t e : State} {rs : List Response}
    (h : runCommands is s = some (t, rs)) (hs : SameSession s e) :
    ∃ u, LegalRun (sessionCommands is s) e u ∧ SameSession t u := by
  induction is generalizing s e rs with
  | nil =>
    obtain ⟨rfl, rfl⟩ : s = t ∧ [] = rs := by simpa [runCommands] using h
    exact ⟨e, .nil e, hs⟩
  | cons i is ih =>
    obtain ⟨v, qs, hexec, hrest, rfl⟩ := runCommands_cons_inv h
    obtain ⟨-, -, hp, -⟩ := sameSession_iff.1 hs
    rw [sessionCommands_cons hexec]
    split
    case isTrue hi =>
      obtain ⟨hl, -⟩ := hi
      obtain rfl := eq_bodyOf_of_legal hl hexec
      obtain ⟨u, hrun, htu⟩ := ih hrest (bodyOf_sameSession hs hl).takeResponse_left
      exact ⟨u, .cons (hp ▸ hl) hrun, htu⟩
    case isFalse hi => exact ih hrest ((exec_keeps_session hexec hi).symm.trans hs).takeResponse_left

/-- A command of a session under way (R107): neither STATUS nor one that opens a session or clears it. -/
def WithinSession (i : Instr) : Prop := i.opcode ≠ 0x0 ∧ i.opcode ≠ 0x1 ∧ i.opcode ≠ 0x7

/-- R117: no such command is legal in FINALIZED. -/
theorem LegalRun.eq_nil_of_finalized {is : List Instr} {s t : State} (h : LegalRun is s t) (hp : s.phase = .finalized)
    (his : ∀ i ∈ is, WithinSession i) : is = [] ∧ t = s := by
  cases h with
  | nil => exact ⟨rfl, rfl⟩
  | @cons i _ _ _ hl _ =>
    obtain ⟨hstatus, hinit, hclear⟩ := his i (List.mem_cons_self ..)
    cases i <;> simp [legal, hp, Instr.opcode] at hl hstatus hinit hclear

section
variable {dir : Phase} {cmd : Word → Instr} {rate : Word → Sponge → Word}
  {source : SubstChoice → Bool → List Word → Sponge → Sponge × List Word}

/-- R107: the commands are message commands of opcode `code` and a FINAL, and take `s` to a state with the words the
source's operations make. -/
def EndsMessage (source : SubstChoice → Bool → List Word → Sponge → Sponge × List Word) (code : BitVec 4) (first : Bool)
    (is : List Instr) (s t : State) : Prop :=
  ∃ msgs f, is = msgs ++ [f] ∧ (∀ i ∈ msgs, i.opcode = code) ∧ f.opcode = 0x6 ∧
    t.S = sourceFinalize s.subst s.K (source s.subst first (msgs.map Instr.d0) s.S).1

/-- R111, R115: a message command `cmd` of opcode `code` is, FINAL apart, the only command of a session its direction
allows. -/
structure OnlyDirection (dir : Phase) (code : BitVec 4) (cmd : Word → Instr) : Prop where
  ne_finalized : dir ≠ .finalized
  cases_of_legal : ∀ i, WithinSession i → legal i dir = true →
    (i.opcode = code ∧ bodyOf i = bodyOf (cmd i.d0)) ∨ i.opcode = 0x6

/-- R115: a FINAL ends the session. -/
theorem MessageOperation.endsMessage_final (op : MessageOperation dir cmd rate source) {code : BitVec 4} {first : Bool}
    {i : Instr} {is : List Instr} {s t : State} (hi : i.opcode = 0x6) (h : LegalRun is (bodyOf i s) t)
    (his : ∀ i ∈ is, WithinSession i) : EndsMessage source code first (i :: is) s t := by
  obtain ⟨d0, d1, rfl⟩ : ∃ d0 d1, i = .final d0 d1 := exists_instrOf_of_opcode hi
  obtain ⟨rfl, rfl⟩ := h.eq_nil_of_finalized rfl his
  exact ⟨[], .final d0 d1, rfl, by simp, rfl, by rw [List.map_nil, op.source_nil]; rfl⟩

/-- R109, R112: one more block in front, the first of the message or a later one. -/
theorem MessageOperation.endsMessage_cons (op : MessageOperation dir cmd rate source) {code : BitVec 4} {i : Instr}
    {is : List Instr} {s t : State} (hp : s.phase = .absorbedAd ∨ s.phase = dir) (hi : i.opcode = code)
    (hbody : bodyOf i = bodyOf (cmd i.d0)) (h : EndsMessage source code false is (bodyOf i s) t) :
    EndsMessage source code (s.phase = .absorbedAd) (i :: is) s t := by
  obtain ⟨msgs, f, rfl, hmsgs, hf, hS⟩ := h
  refine ⟨i :: msgs, f, rfl, List.forall_mem_cons.2 ⟨hi, hmsgs⟩, hf, ?_⟩
  have hsub := exec_keeps_subst (exec_of_legal (op.legal_of i.d0 s.phase hp))
  have hcons := op.source_cons s.subst (s.phase = .absorbedAd) i.d0 (msgs.map Instr.d0) s.S
  simp only [decide_eq_true_eq, ← messageState_eq_ite op.dir_ne hp] at hcons
  rw [hS, hbody, hsub, op.body_K, op.body_S, List.map_cons, hcons]

/-- R107, R111: a session whose message has begun goes on in its direction up to FINAL. -/
theorem MessageOperation.endsMessage_of_begun (op : MessageOperation dir cmd rate source) {code : BitVec 4}
    (honly : OnlyDirection dir code cmd) {is : List Instr} {s t : State} (h : LegalRun is s t) (hp : s.phase = dir)
    (his : ∀ i ∈ is, WithinSession i) (ht : t.phase = .finalized) : EndsMessage source code false is s t := by
  induction h with
  | nil s => exact absurd (hp.symm.trans ht) honly.ne_finalized
  | @cons i is s t hl h ih =>
    obtain ⟨hi, hrest⟩ := List.forall_mem_cons.1 his
    obtain ⟨hcode, hbody⟩ | hfinal := honly.cases_of_legal i hi (hp ▸ hl)
    · have hphase : (bodyOf i s).phase = dir := hbody ▸ op.body_phase i.d0 s
      simpa [hp, op.dir_ne] using op.endsMessage_cons (.inr hp) hcode hbody (ih hphase hrest ht)
    · exact op.endsMessage_final hfinal h hrest

end

theorem encrypt_onlyDirection : OnlyDirection .encrypting 0x4 (fun p => .enc p 0) where
  ne_finalized := by decide
  cases_of_legal i hi hl := by
    obtain ⟨hstatus, hinit, hclear⟩ := hi
    cases i <;> simp [legal, Instr.opcode] at hl hstatus hinit hclear
    case enc => exact .inl ⟨rfl, rfl⟩
    case final => exact .inr rfl

theorem decrypt_onlyDirection : OnlyDirection .decrypting 0x5 (fun c => .dec c 0) where
  ne_finalized := by decide
  cases_of_legal i hi hl := by
    obtain ⟨hstatus, hinit, hclear⟩ := hi
    cases i <;> simp [legal, Instr.opcode] at hl hstatus hinit hclear
    case dec => exact .inl ⟨rfl, rfl⟩
    case final => exact .inr rfl

/-- R107: from AD_END on a session is the blocks of one direction and a FINAL. -/
theorem LegalRun.endsMessage_of_absorbedAd {is : List Instr} {s t : State} (h : LegalRun is s t)
    (hp : s.phase = .absorbedAd) (his : ∀ i ∈ is, WithinSession i) (ht : t.phase = .finalized) :
    EndsMessage sourceEncrypt 0x4 true is s t ∨ EndsMessage sourceDecrypt 0x5 true is s t := by
  cases h with
  | nil => simp [hp] at ht
  | @cons i is _ _ hl h =>
    obtain ⟨⟨hstatus, hinit, hclear⟩, hrest⟩ := List.forall_mem_cons.1 his
    cases i <;> simp [legal, hp, Instr.opcode] at hl hstatus hinit hclear
    case enc d0 d1 =>
      have hlater := encrypt_messageOperation.endsMessage_of_begun encrypt_onlyDirection h (encBody_phase d0 s) hrest ht
      have hall := encrypt_messageOperation.endsMessage_cons (i := .enc d0 d1) (.inl hp) rfl rfl hlater
      rw [decide_eq_true hp] at hall
      exact .inl hall
    case dec d0 d1 =>
      have hlater := decrypt_messageOperation.endsMessage_of_begun decrypt_onlyDirection h (decBody_phase d0 s) hrest ht
      have hall := decrypt_messageOperation.endsMessage_cons (i := .dec d0 d1) (.inl hp) rfl rfl hlater
      rw [decide_eq_true hp] at hall
      exact .inr hall
    case final d0 d1 => exact .inl (encrypt_messageOperation.endsMessage_final rfl h hrest)

/-- R107: before it a session that gets on is blocks of associated data and one AD_END, which flips the domain bit. -/
theorem LegalRun.of_initialized {is : List Instr} {s t : State} (h : LegalRun is s t) (hp : s.phase = .initialized)
    (his : ∀ i ∈ is, WithinSession i) (ht : t.phase ≠ .initialized) :
    ∃ ads a js u, is = ads ++ a :: js ∧ (∀ i ∈ ads, i.opcode = 0x2) ∧ a.opcode = 0x3 ∧ LegalRun js u t ∧
      u.phase = .absorbedAd ∧ u.K = s.K ∧ u.subst = s.subst ∧
      u.S = (ads.foldl (fun S i => permute s.subst .short (S.xorRate i.d0)) s.S).flipDomain := by
  induction h with
  | nil => exact absurd hp ht
  | @cons i is s t hl h ih =>
    obtain ⟨⟨hstatus, hinit, hclear⟩, hrest⟩ := List.forall_mem_cons.1 his
    cases i <;> simp [legal, hp, Instr.opcode] at hl hstatus hinit hclear
    case ad d0 d1 =>
      obtain ⟨ads, a, js, u, rfl, hads, ha, hrun, hup, huK, husub, huS⟩ := ih hp hrest ht
      exact ⟨.ad d0 d1 :: ads, a, js, u, rfl, List.forall_mem_cons.2 ⟨rfl, hads⟩, ha, hrun, hup, huK, husub, huS⟩
    case adEnd d0 d1 => exact ⟨[], .adEnd d0 d1, is, _, rfl, by simp, rfl, h, rfl, rfl, rfl, rfl⟩

end Sys2Proof.Machine

namespace Sys2Proof.Proofs
open Sys2Proof.Machine Sys2Proof.Safety

/-- Settles O38: the session commands are a run of their own; AD_END splits it. -/
theorem domainSeparationExactlyOnce : Obligations.DomainSeparationExactlyOnce := by
  intro is s t rs hp hrun ht hacc
  obtain ⟨v, hlegal, htv⟩ := runCommands_legalRun hrun ⟨rfl, rfl⟩
  obtain ⟨hvS, -, hvp, -⟩ := sameSession_iff.1 htv
  rw [ht] at hvp
  have hwithin : ∀ i ∈ sessionCommands is s, WithinSession i := by
    intro i hi
    obtain ⟨hi, hstatus⟩ := List.mem_filter.1 hi
    exact ⟨by simpa using hstatus, hacc i hi⟩
  obtain ⟨ads, a, js, u, heq, hads, ha, hlegal, hup, huK, husub, huS⟩ :=
    hlegal.of_initialized hp hwithin (by rw [hvp]; decide)
  have hjs : ∀ i ∈ js, WithinSession i := fun i hi => hwithin i (by simp [heq, hi])
  have hparts : ∀ msgs f, ads ++ a :: (msgs ++ [f]) = ads ++ [a] ++ msgs ++ [f] := by simp
  obtain ⟨msgs, f, rfl, hmsgs, hf, hS⟩ | ⟨msgs, f, rfl, hmsgs, hf, hS⟩ :=
    hlegal.endsMessage_of_absorbedAd hup hjs hvp <;>
    rw [hvS, huK, husub, huS] at hS
  · exact ⟨ads, msgs, a, f, heq.trans (hparts msgs f), hads, ha, hf, .inl ⟨hmsgs, hS⟩⟩
  · exact ⟨ads, msgs, a, f, heq.trans (hparts msgs f), hads, ha, hf, .inr ⟨hmsgs, hS⟩⟩

end Sys2Proof.Proofs

/-! The session commands one by one (41_session.md R100 to R115). -/

namespace Sys2Proof.Machine

/-- R106: xor with 1 flips bit 0 and no other. -/
theorem xor_one_getLsbD (w : Word) (j : Nat) :
    (w ^^^ 0x0000000000000001).getLsbD j = (w.getLsbD j ^^ decide (j = 0)) := by
  simp [BitVec.getLsbD_one]

end Sys2Proof.Machine

namespace Sys2Proof.Proofs
open Sys2Proof.Machine Sys2Proof.Safety

/-- Settles O13: where it is legal INIT is its body, elsewhere the rejection; the example reads `P12(0)`. -/
theorem initRule : Obligations.InitRule := by
  refine ⟨fun d0 d1 => Laws.decodeFrame_frameOf 0x1 d1 d0, fun d0 d1 s hp => ?_, fun d0 d1 s hp => ?_,
    fun s t hsub hp h => ?_⟩
  · exact ⟨_, exec_of_legal (legal_init hp d0 d1), rfl⟩
  · exact exec_eq_rejected (by simpa [legal] using hp) rfl
  · obtain rfl := eq_bodyOf_of_legal (legal_init hp _ _) h
    change (permute s.subst .long .zero).xorTail _ = _
    rw [hsub, permute_long_zero]
    decide

/-- Settles O14: likewise AD, and the example's `P6`. -/
theorem adRule : Obligations.AdRule := by
  refine ⟨fun d0 d1 => Laws.decodeFrame_frameOf 0x2 d1 d0, fun d0 d1 s hp => ?_, fun d0 d1 s hp => ?_,
    fun s t hsub hp hS h => ?_⟩
  · exact ⟨_, exec_of_legal (by rw [hp]; rfl), rfl⟩
  · exact exec_eq_rejected (by simpa [legal] using hp) rfl
  · obtain rfl := eq_bodyOf_of_legal (by rw [hp]; rfl) h
    change permute s.subst .short (s.S.xorRate _) = _
    rw [hsub, hS]
    exact permute_short_example

/-- Settles O15: likewise AD_END; the phase it leaves makes a second one illegal. -/
theorem adEndRule : Obligations.AdEndRule := by
  refine ⟨fun d0 d1 => Laws.decodeFrame_frameOf 0x3 d1 d0, fun d0 d1 s hp => ?_, fun d0 d1 s t hp h => ?_,
    fun d0 d1 s hp => ?_⟩
  · exact exec_of_legal (by rw [hp]; rfl)
  · obtain rfl := eq_bodyOf_of_legal (by rw [hp]; rfl) h
    refine ⟨xor_one_getLsbD s.S.s4, fun hs4 => ?_, fun _ _ => exec_eq_rejected rfl rfl⟩
    change s.S.s4 ^^^ 0x0000000000000001 = _
    rw [hs4]
    decide
  · exact exec_eq_rejected (by simpa [legal] using hp) rfl

/-- Settles O16: ENC by the state its block meets, in either legal phase; the example is a first block. -/
theorem encRule : Obligations.EncRule := by
  refine ⟨fun d0 d1 => Laws.decodeFrame_frameOf 0x4 d1 d0, fun d0 d1 s hp => ?_, fun d0 d1 s hp => ?_,
    fun d0 d1 s hp => ?_, fun s hsub hp => ?_⟩
  · rw [exec_of_legal (by rw [hp]; rfl)]
    simp [bodyOf, encBody_eq, messageState, hp, Sponge.setRate]
  · refine ⟨_, exec_of_legal (by rw [hp]; rfl), ?_⟩
    simp [bodyOf, encBody_eq, messageState, hp, Sponge.setRate]
  · exact exec_eq_rejected (by simpa [legal] using hp) rfl
  · obtain ⟨t, hrun⟩ := encrypt_messageOperation.runCommands_firstBlock
      0x0123456789abcdef 0xfedcba9876543210 0x0123456789abcdef hp
    rw [hsub, permute_long_zero] at hrun
    exact ⟨t, _, _, hrun⟩

/-- Settles O17: DEC by the state its block meets, in either legal phase; the example is a first block. -/
theorem decRule : Obligations.DecRule := by
  refine ⟨fun d0 d1 => Laws.decodeFrame_frameOf 0x5 d1 d0, fun d0 d1 s hp => ?_, fun d0 d1 s hp => ?_,
    fun d0 d1 s hp => ?_, fun c m d1 s t u hp ht hu => ?_, fun s hsub hp => ?_⟩
  · rw [exec_of_legal (by rw [hp]; rfl)]
    simp [bodyOf, decBody_eq, messageState, hp, Sponge.setRate]
  · refine ⟨_, exec_of_legal (by rw [hp]; rfl), ?_⟩
    simp [bodyOf, decBody_eq, messageState, hp, Sponge.setRate]
  · exact exec_eq_rejected (by simpa [legal] using hp) rfl
  · have hl : ∀ d0, legal (.dec d0 d1) s.phase = true := fun d0 => by obtain hp | hp := hp <;> rw [hp] <;> rfl
    obtain rfl := eq_bodyOf_of_legal (hl c) ht
    obtain rfl := eq_bodyOf_of_legal (hl (c ^^^ m)) hu
    simp only [bodyOf, decBody_rsp]
    ac_rfl
  · obtain ⟨t, hrun⟩ := decrypt_messageOperation.runCommands_firstBlock
      0x0123456789abcdef 0xfedcba9876543210 0x79c93f8246407ce7 hp
    rw [hsub, permute_long_zero] at hrun
    exact ⟨t, _, _, hrun⟩

/-- Settles O18: FINAL is its body where it is legal; the example is a session with one block. -/
theorem finalRule : Obligations.FinalRule := by
  refine ⟨fun d0 d1 => Laws.decodeFrame_frameOf 0x6 d1 d0, fun d0 d1 s hp => ?_, fun d0 d1 s hp => ?_,
    fun s hsub hp => ?_⟩
  · exact ⟨_, exec_of_legal (by obtain hp | hp | hp := hp <;> rw [hp] <;> rfl), rfl⟩
  · exact exec_eq_rejected (by obtain hp | hp | hp := hp <;> rw [hp] <;> rfl) rfl
  · obtain ⟨t, hrun, -⟩ := encrypt_messageOperation.runCommands_session rfl
      0x0123456789abcdef 0xfedcba9876543210 [] [0x0123456789abcdef] hp
    rw [hsub] at hrun
    change runCommands _ s = some (t, _ ++ [⟨.ok, (sourceFinalize _ _ beforeFinalExample).s3,
      (sourceFinalize _ _ beforeFinalExample).s4⟩]) at hrun
    rw [tag_example] at hrun
    exact ⟨t, _, _, _, hrun⟩

end Sys2Proof.Proofs

/-! STATUS, CLEAR and the reserved opcodes (42_control.md R130 to R134), and what a STATUS between two commands of a run
can change (R131). -/

namespace Sys2Proof.Machine

/-- R130: bits 63:6 of the status word. -/
theorem statusWord_getLsbD_high (s : State) {j : Nat} (hj : 6 ≤ j) : (statusWord s).getLsbD j = false := by
  obtain ⟨-, -, -, hhigh⟩ := statusWord_fields s
  have hbit : ((statusWord s).extractLsb' 6 58).getLsbD (j - 6) = false := by
    rw [hhigh]
    exact BitVec.getLsbD_zero
  rw [BitVec.getLsbD_extractLsb', Nat.add_sub_cancel' hj] at hbit
  by_cases h : j < 64
  · simpa [show j - 6 < 58 by omega] using hbit
  · exact BitVec.getLsbD_of_ge _ _ (by omega)

/-- R27, R132: CLEAR leaves the fields of the status word as reset does. -/
theorem statusWord_clearBody (s : State) : statusWord (clearBody s) = 0 := statusWord_resetCore s

/-- R27, R143: what a STATUS after an error reads. -/
theorem statusWord_reject (code : Status) (s : State) :
    statusWord (reject code s) =
      (code.code.zeroExtend 64 <<< 4) ||| 0x0000000000000008 ||| s.phase.code.zeroExtend 64 := rfl

/-- R132: CLEAR makes the same state of what it has cleared. -/
theorem clearBody_clearBody (s : State) : clearBody (clearBody s) = clearBody s := rfl

/-- R143, R130: a rejected command, and a STATUS that reads its error. -/
theorem runCommands_rejected_status {i : Instr} {s : State} {code : Status} (h : exec i s = .next (reject code s)) :
    ∃ t, runCommands [i, .status 0 0] s =
      some (t, [⟨code, 0, 0⟩, ⟨.ok, statusWord (reject code s), 0⟩]) :=
  ⟨_, runCommands_cons h (runCommands_singleton rfl)⟩

/-- R28, R47: no command reads the response registers or the counter of free values, and each writes the
former whole. -/
theorem exec_withResponse {i : Instr} {s t : State} (h : exec i s = .next t) (v : Bool) (r : Response) (n : Nat) :
    exec i { s with rspValid := v, rsp := r, fresh := n } = .next { t with fresh := n } := by
  rw [exec_eq]
  obtain ⟨hl, rfl⟩ | ⟨hl, rfl⟩ := exec_cases h <;> simp only [hl, if_true]
  · cases i
    case enc => simp only [bodyOf, encBody_eq]; rfl
    case dec => simp only [bodyOf, decBody_eq]; rfl
    case cmd8 | cmd9 | cmdA | cmdB | cmdC | cmdD | cmdE | cmdF => simp [legal] at hl
    all_goals rfl
  · rfl

/-- R28, R174: so a run answers alike whatever they hold before it, and ends alike but for them. -/
theorem runCommands_withResponse {is : List Instr} {s t : State} {rs : List Response}
    (h : runCommands is s = some (t, rs)) (r : Response) (n : Nat) :
    ∃ r' n', runCommands is { s with rsp := r, fresh := n } = some ({ t with rsp := r', fresh := n' }, rs) := by
  induction is generalizing s rs r n with
  | nil =>
    obtain ⟨rfl, rfl⟩ : s = t ∧ [] = rs := by simpa [runCommands] using h
    exact ⟨r, n, rfl⟩
  | cons i is ih =>
    obtain ⟨u, qs, hexec, hrest, rfl⟩ := runCommands_cons_inv h
    obtain ⟨r', n', hrest'⟩ := ih hrest (Config.idleRsp n) (n + 1)
    exact ⟨r', n', runCommands_cons (t := { u with fresh := n }) (exec_withResponse hexec s.rspValid r n) hrest'⟩

/-- R50, R174: a run of any commands goes on to its end and answers each. -/
theorem runCommands_total (is : List Instr) (s : State) :
    ∃ t rs, runCommands is s = some (t, rs) ∧ rs.length = is.length := by
  obtain ⟨t, rs, hrun, -, hlen, -⟩ := runCommands_invariant (is := is) (s := s) (P := fun _ => True)
    (Q := fun _ _ => True) (fun _ _ _ _ _ _ => ⟨trivial, trivial⟩) trivial
  exact ⟨t, rs, hrun, hlen⟩

/-- R131: a STATUS in front of a run of at least one command. -/
theorem runCommands_status_cons {j : Instr} {js : List Instr} {s t : State} {qs : List Response}
    (h : runCommands (j :: js) s = some (t, qs)) (d0 d1 : Word) :
    ∃ r n, runCommands (.status d0 d1 :: j :: js) s =
      some ({ t with rsp := r, fresh := n }, ⟨.ok, statusWord s, 0⟩ :: qs) := by
  obtain ⟨u, ps, hexec, hrest, rfl⟩ := runCommands_cons_inv h
  obtain ⟨r, n, hrest'⟩ := runCommands_withResponse hrest (Config.idleRsp (s.fresh + 1)) (s.fresh + 2)
  have hafter : exec j (takeResponse (statusBody s)) = .next { u with fresh := s.fresh + 1 } :=
    exec_withResponse hexec false (Config.idleRsp s.fresh) (s.fresh + 1)
  exact ⟨r, n, runCommands_cons (t := statusBody s) (exec_of_legal rfl)
    (runCommands_cons (t := { u with fresh := s.fresh + 1 }) hafter hrest')⟩

end Sys2Proof.Machine

namespace Sys2Proof.Proofs
open Sys2Proof.Machine Sys2Proof.Safety

/-- Settles O44: the run up to the STATUS, then the rest of it with and without the STATUS in front. -/
theorem statusIsTransparent : Obligations.StatusIsTransparent := by
  intro is js j d0 d1 s
  obtain ⟨v, rs, hbefore, hlen⟩ := runCommands_total is s
  obtain ⟨t, qs, hafter, -⟩ := runCommands_total (j :: js) v
  obtain ⟨r, n, hstatus⟩ := runCommands_status_cons hafter d0 d1
  exact ⟨t, _, rs, qs, _, hlen, runCommands_append hbefore hafter, runCommands_append hbefore hstatus, rfl, rfl⟩

/-- Settles O19: STATUS is legal in every phase; the last example reads the error of a FINAL in INITIALIZED. -/
theorem statusRule : Obligations.StatusRule := by
  refine ⟨fun d0 d1 => Laws.decodeFrame_frameOf 0x0 d1 d0, fun d0 d1 s => exec_of_legal rfl, fun d0 d1 s t h j hj => ?_,
    ⟨_, exec_of_legal rfl, rfl⟩, fun k0 k1 => ?_⟩
  · obtain rfl := eq_bodyOf_of_legal rfl h
    exact statusWord_getLsbD_high s hj
  · have hinit : exec (.init k0 k1) State.reset = .next (initBody k0 k1 State.reset) := exec_of_legal rfl
    have hfinal : exec (.final 0 0) (takeResponse (initBody k0 k1 State.reset)) =
        .next (reject .errPhase (takeResponse (initBody k0 k1 State.reset))) := exec_eq_rejected rfl rfl
    have hopened : (takeResponse (initBody k0 k1 State.reset)).phase = .initialized := rfl
    obtain ⟨t, hrun⟩ := runCommands_rejected_status hfinal
    rw [statusWord_reject, hopened] at hrun
    exact ⟨t, _, _, runCommands_cons hinit hrun⟩

/-- Settles O20: CLEAR is legal in every phase; the invariant gives what UNINIT and no error leave it to change. -/
theorem clearRule : Obligations.ClearRule := by
  refine ⟨fun d0 d1 => Laws.decodeFrame_frameOf 0x7 d1 d0, fun d0 d1 s => exec_of_legal rfl,
    fun d0 d1 e0 e1 s t h => ?_, fun d0 d1 s t hinv hlost hp herr h => ?_,
    fun d0 d1 s => ⟨_, exec_of_legal rfl, rfl, rfl, rfl, rfl, rfl⟩⟩
  · obtain rfl := eq_bodyOf_of_legal rfl h
    exact ⟨exec_of_legal rfl, _, exec_of_legal rfl, statusWord_clearBody s⟩
  · obtain rfl := eq_bodyOf_of_legal rfl h
    obtain ⟨-, -, -, herrors, -, huninit⟩ := hinv hlost
    obtain ⟨hS, hK⟩ := huninit hp
    simp [archOf, bodyOf, hS, hK, hp, herr, herrors.1 herr]

/-- Settles O21: the opcodes from 8 on select the reserved commands; the example reads the error in ABSORBED_AD. -/
theorem reservedRule : Obligations.ReservedRule := by
  refine ⟨fun op d0 d1 s hop => ?_, fun i s hi => exec_reserved hi s, fun s hp => ?_⟩
  · have hdecode : decodeFrame (op ++ d1 ++ d0) = instrOf op d0 d1 := Laws.decodeFrame_frameOf op d1 d0
    obtain ⟨hopcode, -, -⟩ := Laws.instrOf_fields op d0 d1
    rw [hdecode]
    exact ⟨hopcode, exec_reserved ((Laws.reserved_instrOf op d0 d1).2 hop) s⟩
  · obtain ⟨t, hrun⟩ := runCommands_rejected_status (exec_reserved (i := .cmd9 0 0) rfl s)
    rw [statusWord_reject, hp] at hrun
    exact ⟨t, _, _, hrun, rfl, rfl⟩

end Sys2Proof.Proofs

/-! Errors and loss of power (60_exceptions.md R140 to R148, R156): which opcodes can be rejected and with which status,
runs that begin with rejections, an idle core, and a core that has lost power. -/

namespace Sys2Proof.Machine
open Sys2Proof.Safety

/-- R59: the reserved commands are those of opcode 0x8 to 0xF. -/
theorem reserved_iff_opcode (i : Instr) : reserved i = true ↔ 8 ≤ i.opcode.toNat := by
  rw [← Laws.reserved_instrOf i.opcode i.d0 i.d1, Laws.instrOf_opcode]

/-- R122: STATUS and CLEAR are legal in every phase. -/
theorem legal_of_status_or_clear {i : Instr} (h : i.opcode = 0x0 ∨ i.opcode = 0x7) (ph : Phase) : legal i ph = true := by
  obtain h | h := h
  · obtain ⟨d0, d1, rfl⟩ : ∃ d0 d1, i = .status d0 d1 := exists_instrOf_of_opcode h
    rfl
  · obtain ⟨d0, d1, rfl⟩ : ∃ d0 d1, i = .clear d0 d1 := exists_instrOf_of_opcode h
    rfl

/-- R141: so of the defined opcodes only the session commands 0x1 to 0x6 can be illegal. -/
theorem not_reserved_iff_of_illegal {i : Instr} {ph : Phase} (hl : legal i ph = false) :
    reserved i = false ↔ 1 ≤ i.opcode.toNat ∧ i.opcode.toNat ≤ 6 := by
  have hdefined : ¬ (i.opcode = 0x0 ∨ i.opcode = 0x7) := fun h => by simp [legal_of_status_or_clear h] at hl
  rw [← Bool.not_eq_true, reserved_iff_opcode]
  bv_omega

/-- R141. -/
theorem exec_status_errPhase_iff {i : Instr} {s t : State} (h : exec i s = .next t) :
    t.rsp.status = .errPhase ↔ legal i s.phase = false ∧ reserved i = false := by
  rw [exec_status_eq h]
  cases legal i s.phase <;> cases reserved i <;> simp

/-- R142. -/
theorem exec_status_errInvalid_iff {i : Instr} {s t : State} (h : exec i s = .next t) :
    t.rsp.status = .errInvalid ↔ reserved i = true := by
  rw [exec_status_eq h]
  split_ifs with hl hr
  · simp [reserved_of_legal hl]
  · simp [hr]
  · simp [hr]

/-- R143: a command that is not legal is rejected, with ERR_INVALID or ERR_PHASE by its opcode. -/
theorem exec_of_illegal {i : Instr} {s : State} (hl : legal i s.phase = false) :
    exec i s = .next (reject (if reserved i then .errInvalid else .errPhase) s) := by
  simp [exec_eq, hl]

/-- R148: rejections in a row leave the session where it was, so each next command meets the phase of the first. -/
theorem runCommands_rejected {is : List Instr} {s : State} (his : ∀ j ∈ is, legal j s.phase = false) :
    ∃ t rs, runCommands is s = some (t, rs) ∧ SameSession s t := by
  have hstep : ∀ i ∈ is, ∀ u v, SameSession s u → exec i u = .next v → SameSession s (takeResponse v) ∧ True := by
    intro i hi u v hu h
    obtain ⟨-, -, hp, -⟩ := sameSession_iff.1 hu
    have hkeep : SameSession u v := exec_keeps_session h (by simp [hp, his i hi])
    exact ⟨hu.trans ⟨hkeep.session, hkeep.subst⟩, trivial⟩
  obtain ⟨t, rs, hrun, ht, -, -⟩ := runCommands_invariant (Q := fun _ _ => True) hstep ⟨rfl, rfl⟩
  exact ⟨t, rs, hrun, ht⟩

section
variable {p : Pins} {s : State} {rest : List HostInput}

/-- R144, R160. -/
theorem clockEdge_resets (hrst : p.rst = true) (s : State) : clockEdge p s = .next (resetCore s) := by
  simp [clockEdge, hrst]

/-- R25, R156: an edge that offers no command to an idle core changes nothing, whatever `rsp_ready`. -/
theorem clockEdge_idles (hready : cmdReady p.rst s = true) (hvalid : p.cmdValid = false) : clockEdge p s = .next s := by
  obtain ⟨hrst, hidle, hv⟩ := cmdReady_iff.1 hready
  simp [clockEdge, hrst, hidle, hv, hvalid]

theorem clockEdges_idle {ps : List Pins} (hready : cmdReady false s = true)
    (hps : ∀ q ∈ ps, q.rst = false ∧ q.cmdValid = false) : clockEdges ps s = .next s := by
  induction ps with
  | nil => rfl
  | cons p ps ih =>
    obtain ⟨⟨hrst, hvalid⟩, hps⟩ := List.forall_mem_cons.1 hps
    rw [clockEdges_cons (clockEdge_idles (hrst ▸ hready) hvalid), ih hps]

theorem step_of_no_inputs (h : s.inputs = []) : step s = .next s := by
  simp [step, h]

/-! R156 (log entry 10): the steps of a core that has lost power. -/

theorem step_command_of_lost {f : Frame} (h : s.inputs = .command f :: rest) (hlost : s.lost = true) :
    step s = .refused .stateLost := by
  simp [step_of_inputs h, hostInput, hlost]

theorem step_take_of_lost (h : s.inputs = .take :: rest) (hlost : s.lost = true) : step s = .refused .stateLost := by
  simp [step_of_inputs h, hostInput, hlost]

theorem step_edge_of_lost (h : s.inputs = .edge p :: rest) (hlost : s.lost = true) (hrst : p.rst = false) :
    step s = .refused .stateLost := by
  simp [step_of_inputs h, hostInput, hlost, hrst]

/-- R156: lost or not, a loss of power loses every register. -/
theorem step_losesPower (h : s.inputs = .powerLoss :: rest) : step s = .next (losePower { s with inputs := rest }) :=
  step_of_inputs h

/-- R160: lost or not, a reset brings the core back. -/
theorem step_resets (h : s.inputs = .reset :: rest) : step s = .next (resetCore { s with inputs := rest }) :=
  step_of_inputs h

/-- R160: and an edge with `rst` = 1 is a reset. -/
theorem step_edge_resets (h : s.inputs = .edge p :: rest) (hrst : p.rst = true) :
    step s = .next (resetCore { s with inputs := rest }) := by
  simp [step_of_inputs h, hostInput, hrst, clockEdge_resets hrst]

end

end Sys2Proof.Machine

namespace Sys2Proof.Proofs
open Sys2Proof.Machine Sys2Proof.Safety

/-- Settles O23: the two error statuses by legality and opcode; an error is recorded as `reject` writes it. -/
theorem errorCauses : Obligations.ErrorCauses := by
  refine fun i s t h => ⟨?_, ?_, exec_records_error h, legal_of_status_or_clear⟩
  · rw [exec_status_errPhase_iff h, and_comm, ← and_assoc]
    exact and_congr_left not_reserved_iff_of_illegal
  · rw [exec_status_errInvalid_iff h, reserved_iff_opcode]

/-- Settles O25: the state after the rejection has the session of the state before it, so the followers answer alike. -/
theorem rejectionLeavesNoTrace : Obligations.RejectionLeavesNoTrace := by
  intro i js s hl hjs
  have hexec := exec_of_illegal hl
  have hsame : SameSession s (takeResponse (reject (if reserved i then .errInvalid else .errPhase) s)) := ⟨rfl, rfl⟩
  obtain ⟨t, u, rs, ht, hu, htu⟩ := runCommands_sameSession hsame hjs
  refine ⟨t, u, rs, _, ht, runCommands_cons hexec hu, rfl, rfl, ?_, htu.session⟩
  rw [Ne, exec_status_ok_iff hexec, hl]
  decide

/-- Settles O26: the rejections before the last leave the phase, so the last is rejected too and writes its code. -/
theorem rejectionsInARow : Obligations.RejectionsInARow := by
  refine ⟨fun is i s hall => ?_, fun i s t hi hl h => ?_, fun d0 d1 s => ⟨⟨_, exec_of_legal rfl, rfl, rfl, rfl⟩, rfl, rfl⟩⟩
  · obtain ⟨his, hi⟩ := List.forall_mem_append.1 hall
    obtain ⟨u, rs, hrun, hsame⟩ := runCommands_rejected his
    obtain ⟨-, -, hp, -⟩ := sameSession_iff.1 hsame
    have hlast := exec_of_illegal (s := u) (hp ▸ hi i (List.mem_singleton_self i))
    exact ⟨_, _, runCommands_append hrun (runCommands_cons hlast rfl), hsame.session, rfl, rfl⟩
  · obtain rfl := eq_bodyOf_of_legal hl h
    exact bodyOf_keeps_errors hi s

/-- Settles O54: no edge of the list accepts a command, and a step with no input has nothing to do. -/
theorem idleCoreKeepsItsState : Obligations.IdleCoreKeepsItsState := by
  refine ⟨fun s => step_of_no_inputs, fun ps s hready => ?_⟩
  obtain ⟨-, hidle, hv⟩ := hready
  exact clockEdges_idle (cmdReady_iff.2 ⟨rfl, hidle, hv⟩)

/-- Settles O22: the three branches of `exec`, and reset before them all. -/
theorem stepFunctionOrder : Obligations.StepFunctionOrder := by
  refine fun i s => ⟨fun hr => exec_reserved hr s, fun hr hl => exec_eq_rejected hl hr, fun _ hl => ?_,
    fun p hrst => clockEdge_resets hrst s⟩
  have hexec := exec_of_legal hl
  obtain ⟨-, -, -, -, -, -, -, -, hvalid⟩ := exec_frame hexec
  refine ⟨_, hexec, hvalid, bodyOf_status hl, fun hi => bodyOf_keeps_errors hi s, fun hi => ?_⟩
  obtain ⟨d0, d1, rfl⟩ : ∃ d0 d1, i = .clear d0 d1 := exists_instrOf_of_opcode hi
  exact ⟨rfl, rfl⟩

/-- Settles O55: one clause per kind of the next input, each a step of a core that has lost power. -/
theorem powerLossNeedsReset : Obligations.PowerLossNeedsReset := by
  refine fun s rest hin => ⟨_, step_losesPower hin, rfl, rfl,
    fun f more h => step_command_of_lost h rfl, fun more h => step_take_of_lost h rfl,
    fun more h => ⟨_, step_losesPower h, rfl, rfl⟩, fun p more h => step_edge_of_lost h rfl,
    fun p more h hrst => ⟨_, step_edge_resets h hrst, rfl, rfl⟩, fun more h => ⟨_, step_resets h, rfl, rfl⟩⟩

end Sys2Proof.Proofs

/-! Timing (70_reset_and_hazards.md R171; 10_state.md R33): the registers the handshake signals are computed from, and that
no clock edge lets anything else reach them. -/

namespace Sys2Proof.Machine

/-- R171: the two states agree on what the handshake signals are computed from: the phase, whether a response is pending
and its status, and of a command in flight its opcode and its countdown (log entry 8: and the counter of free values). -/
structure SameControl (s e : State) : Prop where
  phase : s.phase = e.phase
  rspValid : s.rspValid = e.rspValid
  status : s.rsp.status = e.rsp.status
  busy : s.busy = e.busy
  left : s.left = e.left
  opcode : frameOp s.held = frameOp e.held
  fresh : s.fresh = e.fresh

/-- R171: the two sets of input pins differ in the operand words only. -/
def SameControlPins (p q : Pins) : Prop := q = { p with cmdD0 := q.cmdD0, cmdD1 := q.cmdD1 }

theorem SameControlPins.fields {p q : Pins} (h : SameControlPins p q) :
    q.rst = p.rst ∧ q.cmdValid = p.cmdValid ∧ q.cmdOp = p.cmdOp ∧ q.rspReady = p.rspReady := by
  rw [h]
  exact ⟨rfl, rfl, rfl, rfl⟩

theorem decodeFrame_opcode (f : Frame) : (decodeFrame f).opcode = frameOp f := (Laws.instrOf_fields ..).1

/-- R121: the phase after a command reads its opcode and the phase before, no operand. -/
theorem nextPhase_congr {i j : Instr} (h : i.opcode = j.opcode) (ph : Phase) : nextPhase i ph = nextPhase j ph := by
  obtain ⟨d0, d1, rfl⟩ := exists_instrOf_of_opcode h.symm
  cases i <;> rfl

theorem reserved_congr {i j : Instr} (h : i.opcode = j.opcode) : reserved i = reserved j := by
  rw [Bool.eq_iff_iff, reserved_iff_opcode, reserved_iff_opcode, h]

namespace SameControl
variable {s e t u : State}

/-- R33, R45: the handshake signals are computed from the control part. -/
theorem outputs_eq (h : SameControl s e) (rst : Bool) :
    (outputs rst s).cmdReady = (outputs rst e).cmdReady ∧ (outputs rst s).rspValid = (outputs rst e).rspValid ∧
      (outputs rst s).rspStatus = (outputs rst e).rspStatus ∧ (outputs rst s).phaseO = (outputs rst e).phaseO := by
  simp [outputs, cmdReady, h.phase, h.rspValid, h.status, h.busy]

theorem after_reset (h : SameControl s e) : SameControl (resetCore s) (resetCore e) :=
  ⟨rfl, rfl, rfl, rfl, rfl, rfl, h.fresh⟩

/-- R166 (b), log entry 8: the free value in the response registers depends on the counter alone. -/
theorem after_take (h : SameControl s e) : SameControl (takeResponse s) (takeResponse e) where
  phase := h.phase
  rspValid := rfl
  status := congrArg (fun n => (Config.idleRsp n).status) h.fresh
  busy := h.busy
  left := h.left
  opcode := h.opcode
  fresh := congrArg (· + 1) h.fresh

theorem after_runOn (h : SameControl s e) : SameControl (runOn s) (runOn e) :=
  { h with left := congrArg (· - 1) h.left }

theorem after_idleEngine (h : SameControl s e) : SameControl (idleEngine s) (idleEngine e) :=
  { h with busy := rfl, left := rfl }

/-- R171: LAT is a function of opcode and phase. -/
theorem after_accept (h : SameControl s e) {p q : Pins} (hop : q.cmdOp = p.cmdOp) :
    SameControl (acceptCommand p s) (acceptCommand q e) :=
  { h with
    busy := rfl
    left := congrArg₂ Config.lat hop.symm h.phase
    opcode := by simp [acceptCommand, hop] }

/-- R121, R140: the phase after a command and the status of its response depend on opcode and phase. -/
theorem after_exec (h : SameControl s e) {i j : Instr} (hop : i.opcode = j.opcode) (hs : exec i s = .next t)
    (he : exec j e = .next u) : SameControl t u := by
  obtain ⟨-, -, hfresh, -, hbusy, -, hheld, hleft, hv⟩ := exec_frame hs
  obtain ⟨-, -, hfresh', -, hbusy', -, hheld', hleft', hv'⟩ := exec_frame he
  exact {
    phase := by rw [exec_phase hs, exec_phase he, h.phase, nextPhase_congr hop]
    rspValid := hv.trans hv'.symm
    status := by rw [exec_status_eq hs, exec_status_eq he, h.phase, legal_congr hop, reserved_congr hop]
    busy := by rw [hbusy, hbusy', h.busy]
    left := by rw [hleft, hleft', h.left]
    opcode := by rw [hheld, hheld', h.opcode]
    fresh := by rw [hfresh, hfresh', h.fresh] }

/-- R171: one edge, case by case; both runs are in the same case, for control pins and control part decide it. -/
theorem after_edge (h : SameControl s e) {p q : Pins} (hpq : SameControlPins p q) :
    ∃ t u, clockEdge p s = .next t ∧ clockEdge q e = .next u ∧ SameControl t u := by
  obtain ⟨hrst, hvalid, hop, htake⟩ := hpq.fields
  have hbusy := h.busy.symm
  have hrsp := h.rspValid.symm
  obtain ⟨hr, hs⟩ | ⟨hr, hb, hl, hs⟩ | ⟨hr, hb, hl, hs⟩ | ⟨hr, hb, hv, ht, hs⟩ | ⟨hr, hb, hv, ht, hs⟩ |
    ⟨hr, hb, hv, hc, hs⟩ | ⟨hr, hb, hv, hc, hs⟩ := clockEdge_cases p s
  · exact ⟨_, _, hs, clockEdge_resets (hrst.trans hr) e, h.after_reset⟩
  · have hopcode : (decodeFrame s.held).opcode = (decodeFrame e.held).opcode := by
      rw [decodeFrame_opcode, decodeFrame_opcode, h.opcode]
    have he := clockEdge_responds (hrst.trans hr) (hbusy.trans hb) (h.left ▸ hl)
    exact ⟨_, _, hs.trans (exec_eq ..), he.trans (exec_eq ..),
      h.after_idleEngine.after_exec hopcode (exec_eq ..) (exec_eq ..)⟩
  · exact ⟨_, _, hs, clockEdge_runs_on (hrst.trans hr) (hbusy.trans hb) (h.left ▸ hl), h.after_runOn⟩
  · exact ⟨_, _, hs, clockEdge_takes (hrst.trans hr) (hbusy.trans hb) (hrsp.trans hv) (htake.trans ht), h.after_take⟩
  · exact ⟨_, _, hs, clockEdge_waits (hrst.trans hr) (hbusy.trans hb) (hrsp.trans hv) (htake.trans ht), h⟩
  all_goals have hready := cmdReady_iff.2 ⟨hrst.trans hr, hbusy.trans hb, hrsp.trans hv⟩
  · exact ⟨_, _, hs, clockEdge_accepts hready (hvalid.trans hc), h.after_accept hop⟩
  · exact ⟨_, _, hs, clockEdge_idles hready (hvalid.trans hc), h⟩

/-- R171: any number of edges. -/
theorem after_edges {ps : List (Pins × Pins)} (hps : ∀ q ∈ ps, SameControlPins q.1 q.2) (h : SameControl s e) :
    ∃ t u, clockEdges (ps.map Prod.fst) s = .next t ∧ clockEdges (ps.map Prod.snd) e = .next u ∧ SameControl t u := by
  induction ps generalizing s e with
  | nil => exact ⟨s, e, rfl, rfl, h⟩
  | cons q ps ih =>
    obtain ⟨hq, hps⟩ := List.forall_mem_cons.1 hps
    obtain ⟨s', e', hs, he, h'⟩ := h.after_edge hq
    obtain ⟨t, u, ht, hu, htu⟩ := ih hps h'
    exact ⟨t, u, (clockEdges_cons hs _).trans ht, (clockEdges_cons he _).trans hu, htu⟩

end SameControl

end Sys2Proof.Machine

/-! The model's steps over the commands of a run (70_reset_and_hazards.md R174; 20_memory.md R50; log entry 1): the host
offers each to a ready core and takes its response. -/

namespace Sys2Proof.Machine
open Sys2Proof.Safety

/-- R45: a command leaves a ready core idle with its response pending. -/
theorem exec_of_ready {i : Instr} {s t : State} (hs : Ready s) (h : exec i s = .next t) :
    t.lost = false ∧ t.busy = false ∧ t.rspValid = true := by
  obtain ⟨hlost, hidle, -⟩ := hs
  obtain ⟨-, -, -, hlost', hbusy', -, -, -, hv⟩ := exec_frame h
  exact ⟨hlost'.trans hlost, hbusy'.trans hidle, hv⟩

/-- R45 (4), R50: and once that response is taken, the core is ready again. -/
theorem ready_takeResponse {i : Instr} {s t : State} (hs : Ready s) (h : exec i s = .next t) :
    Ready (takeResponse t) := by
  obtain ⟨hlost, hidle, -⟩ := exec_of_ready hs h
  exact ⟨hlost, hidle, rfl⟩

theorem cmdReady_of_ready {s : State} (h : Ready s) : cmdReady false s = true := by
  obtain ⟨-, hidle, hv⟩ := h
  exact cmdReady_iff.2 ⟨rfl, hidle, hv⟩

theorem core_run_succ {s t : State} (h : step s = .next t) (n : Nat) : core.run (n + 1) s = core.run n t := by
  have hstep : core.step s = .next t := h
  simp only [Host.Core.run, hstep]

section
variable {i : Instr} {is : List Instr} {s t : State} {rs : List Response}

/-- R44: a ready core runs the command the host offers. -/
theorem step_offered (hs : Ready s) (h : exec i s = .next t) {es : List HostInput} :
    step { s with inputs := .command (encode i) :: es } = .next { t with inputs := es } := by
  have hready : cmdReady false { s with inputs := es } = true := cmdReady_of_ready (s := s) hs
  obtain ⟨hlost, -⟩ := hs
  calc step { s with inputs := .command (encode i) :: es }
      = offerCommand (encode i) { s with inputs := es } := step_command rfl hlost
    _ = exec i { s with inputs := es } := by rw [offerCommand_of_ready _ hready, Laws.decodeFrame_encode]
    _ = .next { t with inputs := es } := exec_withInputs h es

/-- R45 (4): and the take that follows finds its response. -/
theorem step_take_offered (hs : Ready s) (h : exec i s = .next t) {es : List HostInput} :
    step { t with inputs := .take :: es } = .next { takeResponse t with inputs := es } := by
  obtain ⟨hlost, hidle, hv⟩ := exec_of_ready hs h
  calc step { t with inputs := .take :: es }
      = .next (offerTake { t with inputs := es }) := step_take rfl hlost
    _ = .next (takeResponse { t with inputs := es }) := congrArg _ (offerTake_of_pending hidle hv)

/-- R174: the two steps of one command of a run. -/
theorem core_run_command (hs : Ready s) (h : exec i s = .next t) (es : List HostInput) (n : Nat) :
    core.run (n + 2) { s with inputs := .command (encode i) :: .take :: es } =
      core.run n { takeResponse t with inputs := es } :=
  (core_run_succ (step_offered hs h) (n + 1)).trans (core_run_succ (step_take_offered hs h) n)

/-- R174: the steps over all commands of a run and their takes end in the run's state. -/
theorem core_run_offered (hs : Ready s) (h : runCommands is s = some (t, rs)) (rest : List HostInput) :
    core.run (2 * is.length) { s with inputs := offered is ++ rest } = .next { t with inputs := rest } := by
  induction is generalizing s rs with
  | nil =>
    obtain ⟨rfl, rfl⟩ : s = t ∧ [] = rs := by simpa [runCommands] using h
    rfl
  | cons i is ih =>
    obtain ⟨u, qs, hexec, hrest, rfl⟩ := runCommands_cons_inv h
    exact (core_run_command hs hexec (offered is ++ rest) (2 * is.length)).trans
      (ih (ready_takeResponse hs hexec) hrest)

/-- R174: and after the step of command `k`, the run's response `k` is pending. -/
theorem core_run_pending (hs : Ready s) (h : runCommands is s = some (t, rs)) (rest : List HostInput) {k : Nat}
    (hk : k < is.length) : ∃ u : State, core.run (2 * k + 1) { s with inputs := offered is ++ rest } = .next u ∧
      u.rspValid = true ∧ rs[k]? = some u.rsp := by
  induction is generalizing s rs k with
  | nil => simp at hk
  | cons i is ih =>
    obtain ⟨u, qs, hexec, hrest, rfl⟩ := runCommands_cons_inv h
    cases k with
    | zero =>
      obtain ⟨-, -, hv⟩ := exec_of_ready hs hexec
      exact ⟨_, core_run_succ (step_offered hs hexec) 0, hv, rfl⟩
    | succ k =>
      obtain ⟨v, hrun, hv, hk⟩ := ih (ready_takeResponse hs hexec) hrest (Nat.lt_of_succ_lt_succ hk)
      exact ⟨v, (core_run_command hs hexec (offered is ++ rest) (2 * k + 1)).trans hrun, hv, hk⟩

end

/-! R161: the phase after reset. -/

/-- R122: the commands legal in UNINIT are STATUS, INIT and CLEAR. -/
theorem legal_uninit_iff (i : Instr) :
    legal i .uninit = true ↔ i.opcode = 0x0 ∨ i.opcode = 0x1 ∨ i.opcode = 0x7 := by
  cases i <;> simp [legal, Instr.opcode]

end Sys2Proof.Machine

/-! The statements about reset and hazards (70_reset_and_hazards.md). -/

namespace Sys2Proof.Proofs
open Sys2Proof.Machine Sys2Proof.Safety

/-- Settles O43: each command and its take keep the core ready, and the steps follow the run by induction on its
commands. -/
theorem runAnswersEveryCommand : Obligations.RunAnswersEveryCommand := by
  refine ⟨fun is s hs => ?_, fun is rest s t rs hs h =>
    ⟨core_run_offered hs h rest, fun k => core_run_pending hs h rest⟩⟩
  have hready : Ready s := by
    obtain rfl | hs := hs
    · exact ⟨rfl, rfl, rfl⟩
    · exact hs
  obtain ⟨t, rs, hrun, ht, hlen, -⟩ := runCommands_invariant (is := is) (P := Ready) (Q := fun _ _ => True)
    (fun _ _ _ _ hs h => ⟨ready_takeResponse hs h, trivial⟩) hready
  exact ⟨t, rs, hrun, hlen, ht, cmdReady_of_ready ht⟩

/-- Settles O53: the two runs agree on the control part after every edge. -/
theorem timingIndependentOfData : Obligations.TimingIndependentOfData := by
  intro ps s e hps hp hv hstatus hbusy hleft hop hfresh
  have hse : SameControl s e := ⟨hp, hv, hstatus, hbusy, hleft, hop, hfresh⟩
  obtain ⟨t, u, ht, hu, htu⟩ := hse.after_edges hps
  exact ⟨t, u, ht, hu, htu.outputs_eq⟩

/-- Settles O47: the edge is `resetCore`, whatever the state. -/
theorem resetEdgeAbandonsEverything : Obligations.ResetEdgeAbandonsEverything := fun _ s hrst =>
  ⟨rfl, rfl, _, clockEdge_resets hrst s, rfl, rfl, rfl, rfl, rfl, rfl, rfl⟩

/-- Settles O48: the legal commands of UNINIT, and the two statuses of an illegal one. -/
theorem acceptedAfterReset : Obligations.AcceptedAfterReset := by
  intro i s hs
  obtain ⟨hp, herr⟩ : s.phase = .uninit ∧ s.err = false := by obtain rfl | ⟨e, rfl⟩ := hs <;> exact ⟨rfl, rfl⟩
  have hexec := exec_eq i s
  refine ⟨hp, herr, _, hexec, ?_, ?_, ?_⟩
  · rw [exec_status_ok_iff hexec, hp, legal_uninit_iff]
  · rw [exec_status_errPhase_iff hexec, hp, ← Bool.not_eq_true, legal_uninit_iff, ← Bool.not_eq_true,
      reserved_iff_opcode]
    bv_omega
  · rw [exec_status_errInvalid_iff hexec, reserved_iff_opcode]

end Sys2Proof.Proofs
